-- ==== Sys2Proof/Word.lean ====
section
/-! DEFINITION. The word types of the psrx CPU core (00_scope.md R9, R11, R12). -/

namespace Sys2Proof

/-- A 32-bit value: registers, addresses while they are computed, instruction words (R9, R12). -/
abbrev Word := BitVec 32

/-- A byte of memory (R75). -/
abbrev Byte := BitVec 8

/-- A general-register or coprocessor-0 register number: a 5-bit field, so always in 0..31 (R20, R101). -/
abbrev RegNum := BitVec 5

/-- The widths of an access in bytes: 1, 2 or 4 (R77). -/
inductive Width where
  | byte | half | word
  deriving DecidableEq, Repr

/-- The number of bytes of an access (R77). -/
def Width.bytes : Width → Nat
  | .byte => 1
  | .half => 2
  | .word => 4

end Sys2Proof
end

