-- ==== Sys2Proof/Syntax.lean ====
section
/-! DEFINITION. The instructions: one constructor per row of spec/opcode_table.json (30_encoding.md R107 to R110). Operands
stand in the assembler's order (R116): destination first. -/

namespace Sys2Proof

/-- One instruction of the psrx CPU core. A register operand is its 5-bit number, an immediate its field as encoded. -/
inductive Instr where
  -- Integer ALU instructions (41_alu.md)
  | sll (rd rt : RegNum) (shamt : BitVec 5)
  | srl (rd rt : RegNum) (shamt : BitVec 5)
  | sra (rd rt : RegNum) (shamt : BitVec 5)
  | sllv (rd rt rs : RegNum)
  | srlv (rd rt rs : RegNum)
  | srav (rd rt rs : RegNum)
  | add (rd rs rt : RegNum)
  | addu (rd rs rt : RegNum)
  | sub (rd rs rt : RegNum)
  | subu (rd rs rt : RegNum)
  | and (rd rs rt : RegNum)
  | or (rd rs rt : RegNum)
  | xor (rd rs rt : RegNum)
  | nor (rd rs rt : RegNum)
  | slt (rd rs rt : RegNum)
  | sltu (rd rs rt : RegNum)
  | addi (rt rs : RegNum) (imm : BitVec 16)
  | addiu (rt rs : RegNum) (imm : BitVec 16)
  | slti (rt rs : RegNum) (imm : BitVec 16)
  | sltiu (rt rs : RegNum) (imm : BitVec 16)
  | andi (rt rs : RegNum) (imm : BitVec 16)
  | ori (rt rs : RegNum) (imm : BitVec 16)
  | xori (rt rs : RegNum) (imm : BitVec 16)
  | lui (rt : RegNum) (imm : BitVec 16)
  -- Multiply, divide, HI and LO (42_muldiv.md)
  | mult (rs rt : RegNum)
  | multu (rs rt : RegNum)
  | div (rs rt : RegNum)
  | divu (rs rt : RegNum)
  | mfhi (rd : RegNum)
  | mflo (rd : RegNum)
  | mthi (rs : RegNum)
  | mtlo (rs : RegNum)
  -- Branches and jumps (43_branch_jump.md)
  | j (target : BitVec 26)
  | jal (target : BitVec 26)
  | jr (rs : RegNum)
  | jalr (rd rs : RegNum)
  | beq (rs rt : RegNum) (imm : BitVec 16)
  | bne (rs rt : RegNum) (imm : BitVec 16)
  | blez (rs : RegNum) (imm : BitVec 16)
  | bgtz (rs : RegNum) (imm : BitVec 16)
  | bltz (rs : RegNum) (imm : BitVec 16)
  | bgez (rs : RegNum) (imm : BitVec 16)
  | bltzal (rs : RegNum) (imm : BitVec 16)
  | bgezal (rs : RegNum) (imm : BitVec 16)
  -- Loads and stores (44_load_store.md)
  | lb (rt : RegNum) (imm : BitVec 16) (rs : RegNum)
  | lbu (rt : RegNum) (imm : BitVec 16) (rs : RegNum)
  | lh (rt : RegNum) (imm : BitVec 16) (rs : RegNum)
  | lhu (rt : RegNum) (imm : BitVec 16) (rs : RegNum)
  | lw (rt : RegNum) (imm : BitVec 16) (rs : RegNum)
  | lwl (rt : RegNum) (imm : BitVec 16) (rs : RegNum)
  | lwr (rt : RegNum) (imm : BitVec 16) (rs : RegNum)
  | sb (rt : RegNum) (imm : BitVec 16) (rs : RegNum)
  | sh (rt : RegNum) (imm : BitVec 16) (rs : RegNum)
  | sw (rt : RegNum) (imm : BitVec 16) (rs : RegNum)
  | swl (rt : RegNum) (imm : BitVec 16) (rs : RegNum)
  | swr (rt : RegNum) (imm : BitVec 16) (rs : RegNum)
  -- System instructions and coprocessors (45_system_cop.md)
  | syscall (code : BitVec 20)
  | brk (code : BitVec 20)
  | mfc0 (rt rd : RegNum)
  | mtc0 (rt rd : RegNum)
  | rfe
  | cop1 (cofun : BitVec 26)
  | cop2 (cofun : BitVec 26)
  | cop3 (cofun : BitVec 26)
  | lwc0 (rt : RegNum) (imm : BitVec 16) (rs : RegNum)
  | lwc1 (rt : RegNum) (imm : BitVec 16) (rs : RegNum)
  | lwc2 (rt : RegNum) (imm : BitVec 16) (rs : RegNum)
  | lwc3 (rt : RegNum) (imm : BitVec 16) (rs : RegNum)
  | swc0 (rt : RegNum) (imm : BitVec 16) (rs : RegNum)
  | swc1 (rt : RegNum) (imm : BitVec 16) (rs : RegNum)
  | swc2 (rt : RegNum) (imm : BitVec 16) (rs : RegNum)
  | swc3 (rt : RegNum) (imm : BitVec 16) (rs : RegNum)
  deriving DecidableEq, Repr

end Sys2Proof
end

