-- ==== Sys2Proof/Decode.lean ====
section
/-! DEFINITION. Decoding and encoding (30_encoding.md). The decoder is total on words and bytes and rejects by name; the
encoder writes a word from the same formats. Every field position is that of R101. -/

namespace Sys2Proof

/-! ## Fields of a word (R101) -/

/-- Primary opcode, bits 31:26. -/
def opField (w : Word) : BitVec 6 := w.extractLsb' 26 6

/-- `rs`, bits 25:21. -/
def rsField (w : Word) : BitVec 5 := w.extractLsb' 21 5

/-- `rt`, bits 20:16. -/
def rtField (w : Word) : BitVec 5 := w.extractLsb' 16 5

/-- `rd`, bits 15:11. -/
def rdField (w : Word) : BitVec 5 := w.extractLsb' 11 5

/-- `shamt`, bits 10:6. -/
def shamtField (w : Word) : BitVec 5 := w.extractLsb' 6 5

/-- `funct`, bits 5:0. -/
def functField (w : Word) : BitVec 6 := w.extractLsb' 0 6

/-- `imm`, bits 15:0. -/
def immField (w : Word) : BitVec 16 := w.extractLsb' 0 16

/-- `target` of J and JAL, and the uninterpreted bits of COP1 to COP3, bits 25:0. -/
def targetField (w : Word) : BitVec 26 := w.extractLsb' 0 26

/-- `code` of SYSCALL and BREAK, bits 25:6. -/
def codeField (w : Word) : BitVec 20 := w.extractLsb' 6 20

/-- `co`, bit 25: set for coprocessor operations. -/
def coBit (w : Word) : Bool := w.getLsbD 25

/-! ## Decoding -/

/-- Why bytes are no instruction of the table. -/
inductive DecodeError where
  /-- An RI cell of R107 or R108: the word has no handler (R111). -/
  | reserved
  /-- A COP0 word that is not MFC0, MTC0 or RFE: CpU or RI after the coprocessor-usable check (R110, R299). -/
  | cop0Reserved
  /-- A REGIMM word whose `rt` is not one of the four branches (R109). -/
  | regimmAlias
  /-- Fewer than four bytes (R100). -/
  | truncated
  deriving DecidableEq, Repr

/-- The SPECIAL group, by `funct` (R108). -/
def decodeSpecial (w : Word) : Except DecodeError Instr :=
  match functField w with
  | 0x00 => .ok (.sll (rdField w) (rtField w) (shamtField w))
  | 0x02 => .ok (.srl (rdField w) (rtField w) (shamtField w))
  | 0x03 => .ok (.sra (rdField w) (rtField w) (shamtField w))
  | 0x04 => .ok (.sllv (rdField w) (rtField w) (rsField w))
  | 0x06 => .ok (.srlv (rdField w) (rtField w) (rsField w))
  | 0x07 => .ok (.srav (rdField w) (rtField w) (rsField w))
  | 0x08 => .ok (.jr (rsField w))
  | 0x09 => .ok (.jalr (rdField w) (rsField w))
  | 0x0C => .ok (.syscall (codeField w))
  | 0x0D => .ok (.brk (codeField w))
  | 0x10 => .ok (.mfhi (rdField w))
  | 0x11 => .ok (.mthi (rsField w))
  | 0x12 => .ok (.mflo (rdField w))
  | 0x13 => .ok (.mtlo (rsField w))
  | 0x18 => .ok (.mult (rsField w) (rtField w))
  | 0x19 => .ok (.multu (rsField w) (rtField w))
  | 0x1A => .ok (.div (rsField w) (rtField w))
  | 0x1B => .ok (.divu (rsField w) (rtField w))
  | 0x20 => .ok (.add (rdField w) (rsField w) (rtField w))
  | 0x21 => .ok (.addu (rdField w) (rsField w) (rtField w))
  | 0x22 => .ok (.sub (rdField w) (rsField w) (rtField w))
  | 0x23 => .ok (.subu (rdField w) (rsField w) (rtField w))
  | 0x24 => .ok (.and (rdField w) (rsField w) (rtField w))
  | 0x25 => .ok (.or (rdField w) (rsField w) (rtField w))
  | 0x26 => .ok (.xor (rdField w) (rsField w) (rtField w))
  | 0x27 => .ok (.nor (rdField w) (rsField w) (rtField w))
  | 0x2A => .ok (.slt (rdField w) (rsField w) (rtField w))
  | 0x2B => .ok (.sltu (rdField w) (rsField w) (rtField w))
  | _ => .error .reserved

/-- The REGIMM group, by `rt` (R109). -/
def decodeRegimm (w : Word) : Except DecodeError Instr :=
  match rtField w with
  | 0x00 => .ok (.bltz (rsField w) (immField w))
  | 0x01 => .ok (.bgez (rsField w) (immField w))
  | 0x10 => .ok (.bltzal (rsField w) (immField w))
  | 0x11 => .ok (.bgezal (rsField w) (immField w))
  | _ => .error .regimmAlias

/-- The COP0 group, by bit 25 and then `funct` or `rs` (R110). -/
def decodeCop0 (w : Word) : Except DecodeError Instr :=
  if coBit w then
    if functField w = 0x10#6 then .ok .rfe else .error .cop0Reserved
  else
    match rsField w with
    | 0x00 => .ok (.mfc0 (rtField w) (rdField w))
    | 0x04 => .ok (.mtc0 (rtField w) (rdField w))
    | _ => .error .cop0Reserved

/-- The decoder (R107, R115), without the coprocessor-usable checks of R115, which need SR and stand in the meanings. -/
def decode (w : Word) : Except DecodeError Instr :=
  match opField w with
  | 0x00 => decodeSpecial w
  | 0x01 => decodeRegimm w
  | 0x10 => decodeCop0 w
  | 0x02 => .ok (.j (targetField w))
  | 0x03 => .ok (.jal (targetField w))
  | 0x04 => .ok (.beq (rsField w) (rtField w) (immField w))
  | 0x05 => .ok (.bne (rsField w) (rtField w) (immField w))
  | 0x06 => .ok (.blez (rsField w) (immField w))
  | 0x07 => .ok (.bgtz (rsField w) (immField w))
  | 0x08 => .ok (.addi (rtField w) (rsField w) (immField w))
  | 0x09 => .ok (.addiu (rtField w) (rsField w) (immField w))
  | 0x0A => .ok (.slti (rtField w) (rsField w) (immField w))
  | 0x0B => .ok (.sltiu (rtField w) (rsField w) (immField w))
  | 0x0C => .ok (.andi (rtField w) (rsField w) (immField w))
  | 0x0D => .ok (.ori (rtField w) (rsField w) (immField w))
  | 0x0E => .ok (.xori (rtField w) (rsField w) (immField w))
  | 0x0F => .ok (.lui (rtField w) (immField w))
  | 0x11 => .ok (.cop1 (targetField w))
  | 0x12 => .ok (.cop2 (targetField w))
  | 0x13 => .ok (.cop3 (targetField w))
  | 0x20 => .ok (.lb (rtField w) (immField w) (rsField w))
  | 0x21 => .ok (.lh (rtField w) (immField w) (rsField w))
  | 0x22 => .ok (.lwl (rtField w) (immField w) (rsField w))
  | 0x23 => .ok (.lw (rtField w) (immField w) (rsField w))
  | 0x24 => .ok (.lbu (rtField w) (immField w) (rsField w))
  | 0x25 => .ok (.lhu (rtField w) (immField w) (rsField w))
  | 0x26 => .ok (.lwr (rtField w) (immField w) (rsField w))
  | 0x28 => .ok (.sb (rtField w) (immField w) (rsField w))
  | 0x29 => .ok (.sh (rtField w) (immField w) (rsField w))
  | 0x2A => .ok (.swl (rtField w) (immField w) (rsField w))
  | 0x2B => .ok (.sw (rtField w) (immField w) (rsField w))
  | 0x2E => .ok (.swr (rtField w) (immField w) (rsField w))
  | 0x30 => .ok (.lwc0 (rtField w) (immField w) (rsField w))
  | 0x31 => .ok (.lwc1 (rtField w) (immField w) (rsField w))
  | 0x32 => .ok (.lwc2 (rtField w) (immField w) (rsField w))
  | 0x33 => .ok (.lwc3 (rtField w) (immField w) (rsField w))
  | 0x38 => .ok (.swc0 (rtField w) (immField w) (rsField w))
  | 0x39 => .ok (.swc1 (rtField w) (immField w) (rsField w))
  | 0x3A => .ok (.swc2 (rtField w) (immField w) (rsField w))
  | 0x3B => .ok (.swc3 (rtField w) (immField w) (rsField w))
  | _ => .error .reserved

/-- The four bytes of a word in the order they lie in memory: little-endian (20_memory.md R74, R100). -/
def bytesOfWord (w : Word) : List Byte :=
  [w.extractLsb' 0 8, w.extractLsb' 8 8, w.extractLsb' 16 8, w.extractLsb' 24 8]

/-- The word of four bytes, the first at the lowest address (R74). -/
def wordOfBytes (b0 b1 b2 b3 : Byte) : Word := b3 ++ b2 ++ b1 ++ b0

/-- The decoder over bytes: one instruction is the first four of them (R100), and the rest is handed back. -/
def decodeBytes : List Byte → Except DecodeError (Instr × List Byte)
  | b0 :: b1 :: b2 :: b3 :: rest =>
    match decode (wordOfBytes b0 b1 b2 b3) with
    | .ok i => .ok (i, rest)
    | .error e => .error e
  | _ => .error .truncated

/-- The instruction word that `nbits` bits of `w` stand for: every bit above them is 0. -/
def tableWord (nbits w : Nat) : Word := BitVec.ofNat 32 (w % 2 ^ nbits)

/-- The instruction the decoder reads from a word numbered as spec/opcode_table.json numbers it. -/
def decodeTableWord (nbits w : Nat) : Option Instr :=
  match decodeBytes (bytesOfWord (tableWord nbits w)) with
  | .ok (i, _) => some i
  | .error _ => none

/-! ## Encoding -/

/-- R-type format (R102). -/
def rType (rs rt rd : RegNum) (shamt : BitVec 5) (funct : BitVec 6) : Word :=
  0#6 ++ rs ++ rt ++ rd ++ shamt ++ funct

/-- The SPECIAL format of SYSCALL and BREAK with its 20-bit `code` (R101). -/
def codeType (code : BitVec 20) (funct : BitVec 6) : Word := 0#6 ++ code ++ funct

/-- I-type format (R103). -/
def iType (op : BitVec 6) (rs rt : RegNum) (imm : BitVec 16) : Word := op ++ rs ++ rt ++ imm

/-- J-type format (R104); COP1 to COP3 have the same fields. -/
def jType (op : BitVec 6) (target : BitVec 26) : Word := op ++ target

/-- The move format of coprocessor 0 (R105): `rs` selects the move, bits 10:0 are unused. -/
def moveType (rs rt rd : RegNum) : Word := 0x10#6 ++ rs ++ rt ++ rd ++ 0#11

/-- The word of an instruction; a field it does not use is 0 (R113). -/
def encode : Instr → Word
  | .sll rd rt shamt => rType 0 rt rd shamt 0x00
  | .srl rd rt shamt => rType 0 rt rd shamt 0x02
  | .sra rd rt shamt => rType 0 rt rd shamt 0x03
  | .sllv rd rt rs => rType rs rt rd 0 0x04
  | .srlv rd rt rs => rType rs rt rd 0 0x06
  | .srav rd rt rs => rType rs rt rd 0 0x07
  | .add rd rs rt => rType rs rt rd 0 0x20
  | .addu rd rs rt => rType rs rt rd 0 0x21
  | .sub rd rs rt => rType rs rt rd 0 0x22
  | .subu rd rs rt => rType rs rt rd 0 0x23
  | .and rd rs rt => rType rs rt rd 0 0x24
  | .or rd rs rt => rType rs rt rd 0 0x25
  | .xor rd rs rt => rType rs rt rd 0 0x26
  | .nor rd rs rt => rType rs rt rd 0 0x27
  | .slt rd rs rt => rType rs rt rd 0 0x2A
  | .sltu rd rs rt => rType rs rt rd 0 0x2B
  | .addi rt rs imm => iType 0x08 rs rt imm
  | .addiu rt rs imm => iType 0x09 rs rt imm
  | .slti rt rs imm => iType 0x0A rs rt imm
  | .sltiu rt rs imm => iType 0x0B rs rt imm
  | .andi rt rs imm => iType 0x0C rs rt imm
  | .ori rt rs imm => iType 0x0D rs rt imm
  | .xori rt rs imm => iType 0x0E rs rt imm
  | .lui rt imm => iType 0x0F 0 rt imm
  | .mult rs rt => rType rs rt 0 0 0x18
  | .multu rs rt => rType rs rt 0 0 0x19
  | .div rs rt => rType rs rt 0 0 0x1A
  | .divu rs rt => rType rs rt 0 0 0x1B
  | .mfhi rd => rType 0 0 rd 0 0x10
  | .mflo rd => rType 0 0 rd 0 0x12
  | .mthi rs => rType rs 0 0 0 0x11
  | .mtlo rs => rType rs 0 0 0 0x13
  | .j target => jType 0x02 target
  | .jal target => jType 0x03 target
  | .jr rs => rType rs 0 0 0 0x08
  | .jalr rd rs => rType rs 0 rd 0 0x09
  | .beq rs rt imm => iType 0x04 rs rt imm
  | .bne rs rt imm => iType 0x05 rs rt imm
  | .blez rs imm => iType 0x06 rs 0 imm
  | .bgtz rs imm => iType 0x07 rs 0 imm
  | .bltz rs imm => iType 0x01 rs 0x00 imm
  | .bgez rs imm => iType 0x01 rs 0x01 imm
  | .bltzal rs imm => iType 0x01 rs 0x10 imm
  | .bgezal rs imm => iType 0x01 rs 0x11 imm
  | .lb rt imm rs => iType 0x20 rs rt imm
  | .lbu rt imm rs => iType 0x24 rs rt imm
  | .lh rt imm rs => iType 0x21 rs rt imm
  | .lhu rt imm rs => iType 0x25 rs rt imm
  | .lw rt imm rs => iType 0x23 rs rt imm
  | .lwl rt imm rs => iType 0x22 rs rt imm
  | .lwr rt imm rs => iType 0x26 rs rt imm
  | .sb rt imm rs => iType 0x28 rs rt imm
  | .sh rt imm rs => iType 0x29 rs rt imm
  | .sw rt imm rs => iType 0x2B rs rt imm
  | .swl rt imm rs => iType 0x2A rs rt imm
  | .swr rt imm rs => iType 0x2E rs rt imm
  | .syscall code => codeType code 0x0C
  | .brk code => codeType code 0x0D
  | .mfc0 rt rd => moveType 0x00 rt rd
  | .mtc0 rt rd => moveType 0x04 rt rd
  | .rfe => 0x42000010
  | .cop1 cofun => jType 0x11 cofun
  | .cop2 cofun => jType 0x12 cofun
  | .cop3 cofun => jType 0x13 cofun
  | .lwc0 rt imm rs => iType 0x30 rs rt imm
  | .lwc1 rt imm rs => iType 0x31 rs rt imm
  | .lwc2 rt imm rs => iType 0x32 rs rt imm
  | .lwc3 rt imm rs => iType 0x33 rs rt imm
  | .swc0 rt imm rs => iType 0x38 rs rt imm
  | .swc1 rt imm rs => iType 0x39 rs rt imm
  | .swc2 rt imm rs => iType 0x3A rs rt imm
  | .swc3 rt imm rs => iType 0x3B rs rt imm

/-! ## The opcode table (spec/opcode_table.json) -/

/-- A row of the opcode table: a word is the row's instruction when its bits under `mask` are `pattern`. -/
structure OpcodeRow where
  mask    : Word
  pattern : Word
  deriving DecidableEq, Repr

/-- The word has the row's fixed bits. -/
def OpcodeRow.fits (r : OpcodeRow) (w : Word) : Bool := w &&& r.mask = r.pattern

/-- The row of spec/opcode_table.json that an instruction stands in: its "mask" and "match". -/
def Instr.row : Instr → OpcodeRow
  | .sll _ _ _ => ⟨0xFC00003F, 0x00000000⟩
  | .srl _ _ _ => ⟨0xFC00003F, 0x00000002⟩
  | .sra _ _ _ => ⟨0xFC00003F, 0x00000003⟩
  | .sllv _ _ _ => ⟨0xFC00003F, 0x00000004⟩
  | .srlv _ _ _ => ⟨0xFC00003F, 0x00000006⟩
  | .srav _ _ _ => ⟨0xFC00003F, 0x00000007⟩
  | .add _ _ _ => ⟨0xFC00003F, 0x00000020⟩
  | .addu _ _ _ => ⟨0xFC00003F, 0x00000021⟩
  | .sub _ _ _ => ⟨0xFC00003F, 0x00000022⟩
  | .subu _ _ _ => ⟨0xFC00003F, 0x00000023⟩
  | .and _ _ _ => ⟨0xFC00003F, 0x00000024⟩
  | .or _ _ _ => ⟨0xFC00003F, 0x00000025⟩
  | .xor _ _ _ => ⟨0xFC00003F, 0x00000026⟩
  | .nor _ _ _ => ⟨0xFC00003F, 0x00000027⟩
  | .slt _ _ _ => ⟨0xFC00003F, 0x0000002A⟩
  | .sltu _ _ _ => ⟨0xFC00003F, 0x0000002B⟩
  | .addi _ _ _ => ⟨0xFC000000, 0x20000000⟩
  | .addiu _ _ _ => ⟨0xFC000000, 0x24000000⟩
  | .slti _ _ _ => ⟨0xFC000000, 0x28000000⟩
  | .sltiu _ _ _ => ⟨0xFC000000, 0x2C000000⟩
  | .andi _ _ _ => ⟨0xFC000000, 0x30000000⟩
  | .ori _ _ _ => ⟨0xFC000000, 0x34000000⟩
  | .xori _ _ _ => ⟨0xFC000000, 0x38000000⟩
  | .lui _ _ => ⟨0xFC000000, 0x3C000000⟩
  | .mult _ _ => ⟨0xFC00003F, 0x00000018⟩
  | .multu _ _ => ⟨0xFC00003F, 0x00000019⟩
  | .div _ _ => ⟨0xFC00003F, 0x0000001A⟩
  | .divu _ _ => ⟨0xFC00003F, 0x0000001B⟩
  | .mfhi _ => ⟨0xFC00003F, 0x00000010⟩
  | .mflo _ => ⟨0xFC00003F, 0x00000012⟩
  | .mthi _ => ⟨0xFC00003F, 0x00000011⟩
  | .mtlo _ => ⟨0xFC00003F, 0x00000013⟩
  | .j _ => ⟨0xFC000000, 0x08000000⟩
  | .jal _ => ⟨0xFC000000, 0x0C000000⟩
  | .jr _ => ⟨0xFC00003F, 0x00000008⟩
  | .jalr _ _ => ⟨0xFC00003F, 0x00000009⟩
  | .beq _ _ _ => ⟨0xFC000000, 0x10000000⟩
  | .bne _ _ _ => ⟨0xFC000000, 0x14000000⟩
  | .blez _ _ => ⟨0xFC000000, 0x18000000⟩
  | .bgtz _ _ => ⟨0xFC000000, 0x1C000000⟩
  | .bltz _ _ => ⟨0xFC1F0000, 0x04000000⟩
  | .bgez _ _ => ⟨0xFC1F0000, 0x04010000⟩
  | .bltzal _ _ => ⟨0xFC1F0000, 0x04100000⟩
  | .bgezal _ _ => ⟨0xFC1F0000, 0x04110000⟩
  | .lb _ _ _ => ⟨0xFC000000, 0x80000000⟩
  | .lbu _ _ _ => ⟨0xFC000000, 0x90000000⟩
  | .lh _ _ _ => ⟨0xFC000000, 0x84000000⟩
  | .lhu _ _ _ => ⟨0xFC000000, 0x94000000⟩
  | .lw _ _ _ => ⟨0xFC000000, 0x8C000000⟩
  | .lwl _ _ _ => ⟨0xFC000000, 0x88000000⟩
  | .lwr _ _ _ => ⟨0xFC000000, 0x98000000⟩
  | .sb _ _ _ => ⟨0xFC000000, 0xA0000000⟩
  | .sh _ _ _ => ⟨0xFC000000, 0xA4000000⟩
  | .sw _ _ _ => ⟨0xFC000000, 0xAC000000⟩
  | .swl _ _ _ => ⟨0xFC000000, 0xA8000000⟩
  | .swr _ _ _ => ⟨0xFC000000, 0xB8000000⟩
  | .syscall _ => ⟨0xFC00003F, 0x0000000C⟩
  | .brk _ => ⟨0xFC00003F, 0x0000000D⟩
  | .mfc0 _ _ => ⟨0xFFE00000, 0x40000000⟩
  | .mtc0 _ _ => ⟨0xFFE00000, 0x40800000⟩
  | .rfe => ⟨0xFE00003F, 0x42000010⟩
  | .cop1 _ => ⟨0xFC000000, 0x44000000⟩
  | .cop2 _ => ⟨0xFC000000, 0x48000000⟩
  | .cop3 _ => ⟨0xFC000000, 0x4C000000⟩
  | .lwc0 _ _ _ => ⟨0xFC000000, 0xC0000000⟩
  | .lwc1 _ _ _ => ⟨0xFC000000, 0xC4000000⟩
  | .lwc2 _ _ _ => ⟨0xFC000000, 0xC8000000⟩
  | .lwc3 _ _ _ => ⟨0xFC000000, 0xCC000000⟩
  | .swc0 _ _ _ => ⟨0xFC000000, 0xE0000000⟩
  | .swc1 _ _ _ => ⟨0xFC000000, 0xE4000000⟩
  | .swc2 _ _ _ => ⟨0xFC000000, 0xE8000000⟩
  | .swc3 _ _ _ => ⟨0xFC000000, 0xEC000000⟩

end Sys2Proof
end

