-- ==== Sys2Proof/Config.lean ====
section
/-! DEFINITION. The parameters of a model at the spec's default values (00_scope.md R10), the region table
(20_memory.md R62, R66), and the free values: opaque constants, so that nothing in Lean can evaluate one or prove a value
of it. -/

namespace Sys2Proof

/-- The devices of the region table (20_memory.md R66). -/
inductive Device where
  | ram | exp1 | scratch | io | exp2 | bios | cacheCtl
  deriving DecidableEq, Repr

/-- A place in the fixed order in which stale marks are listed; the order itself means nothing. -/
def Device.index : Device → Nat
  | .ram => 0
  | .exp1 => 1
  | .scratch => 2
  | .io => 3
  | .exp2 => 4
  | .bios => 5
  | .cacheCtl => 6

/-- RAM, SCRATCH and BIOS are byte arrays (R75, R76); the other devices are external. -/
def Device.isMemory : Device → Bool
  | .ram | .scratch | .bios => true
  | .exp1 | .io | .exp2 | .cacheCtl => false

/-- The memory devices that accept a write: RAM and SCRATCH (R75); BIOS is read-only (R76). -/
def Device.isWritable : Device → Bool
  | .ram | .scratch => true
  | .exp1 | .io | .exp2 | .bios | .cacheCtl => false

/-- A `MemoryRegion` of the region table (R65): the range of physical addresses a device claims, and its mirror period. -/
structure Region where
  device : Device
  base   : Nat
  window : Nat
  period : Nat
  deriving DecidableEq, Repr

/-- One request on the bus port to an external device (00_scope.md R8 (c), 20_memory.md R72). -/
inductive BusOp where
  | read  (device : Device) (offset : Nat) (width : Width)
  | write (device : Device) (offset : Nat) (width : Width) (data : Word)
  deriving DecidableEq, Repr

/-- Two regions claim no common address. -/
abbrev Region.disjoint (r q : Region) : Prop :=
  r.base + r.window ≤ q.base ∨ q.base + q.window ≤ r.base

/-- R65: `window > 0`, `0 < period ≤ window`, `base + window ≤ 2^32` for every region, and no two regions overlap. -/
abbrev regionTableWf (table : List Region) : Prop :=
  (∀ r ∈ table, 0 < r.window ∧ 0 < r.period ∧ r.period ≤ r.window ∧ r.base + r.window ≤ 0x100000000)
    ∧ table.Pairwise Region.disjoint

namespace Config

/-- `PRID_VALUE` (R10, R48). A claim must not depend on the value (92 D11; log 20). -/
def pridValue : Word := 0x00000002

/-- `RESET_PC`, the firmware entry address (R10). -/
def resetPc : Word := 0xBFC00000

/-- `VEC_RAM`, the exception vector when SR.BEV = 0 (R10, R335). -/
def vecRam : Word := 0x80000080

/-- `VEC_ROM`, the exception vector when SR.BEV = 1 (R10, R335). -/
def vecRom : Word := 0xBFC00180

/-- `SR_RESET`: BEV = 1 and every other bit 0 (R10, R51; log 7). -/
def srReset : Word := 0x00400000

/-- `RAM_SIZE`: 2 MiB of main memory (R10). -/
def ramSize : Nat := 0x00200000

/-- The physical address of BIOS (R66). -/
def biosBase : Nat := 0x1FC00000

/-- The size of BIOS, 512 KiB (R66). -/
def biosSize : Nat := 0x00080000

/-- `SEG_MASK[vaddr[31:29]]` (R62): KSEG0 (4) and KSEG1 (5) fold onto the low 512 MiB, the other segments are not folded. -/
def segMask (seg : BitVec 3) : Word :=
  if seg = 4#3 then 0x7FFFFFFF else if seg = 5#3 then 0x1FFFFFFF else 0xFFFFFFFF

/-- The default `REGION_TABLE` (R66). -/
def regionTable : List Region :=
  [ ⟨.ram,      0x00000000, 0x00800000, ramSize⟩,
    ⟨.exp1,     0x1F000000, 0x00800000, 0x00800000⟩,
    ⟨.scratch,  0x1F800000, 0x00000400, 0x00000400⟩,
    ⟨.io,       0x1F801000, 0x00001000, 0x00001000⟩,
    ⟨.exp2,     0x1F802000, 0x00002000, 0x00002000⟩,
    ⟨.bios,     0x1FC00000, 0x00080000, 0x00080000⟩,
    ⟨.cacheCtl, 0xFFFE0000, 0x00000200, 0x00000200⟩ ]

/-! Free values. All but the initial bytes are applied to the draw counter `State.tick` (log 8), so that two steps draw
independently. -/

/-- The interrupt input lines `int_in[5:0]` of a step whose value the host has not fixed (R50; log 1). -/
opaque intIn : Nat → BitVec 6

/-- Cause.CE after an exception other than CpU (R43, R332; log 3). -/
opaque causeCe : Nat → BitVec 2

/-- EPC after reset (R51; log 2). -/
opaque resetEpc : Nat → Word

/-- BadVaddr after reset (R51; log 2). -/
opaque resetBadVaddr : Nat → Word

/-- What a cell of a memory device holds while neither a loader nor a store has written it: in RAM and SCRATCH the contents after
power-on (R75, R370), in BIOS the firmware image that the host has provided (R76, R375; log 5). -/
opaque initialByte : Nat → Byte

/-- What the external devices answer to a bus operation (R72, R76; log 4), from the draw counter and every operation
issued to them before, newest first: `none` is a device fault, `some v` the value of a read or the acknowledgement of a
write (whose `v` nothing reads). -/
opaque deviceAnswer : Nat → List BusOp → BusOp → Option Word

/-- `CYCLES`, the cycle count a step returns, which no rule reads (R149, R385; log 11). -/
opaque cycles : Nat → Nat

end Config

end Sys2Proof
end

