-- ==== Sys2Proof/Machine/State.lean ====
section
/-! DEFINITION. The state of the psrx CPU core as plain data (10_state.md), the reasons a step ends without a successor
(60_exceptions.md R323), and the state after reset (10_state.md R51, 70_reset_and_hazards.md R370). -/

namespace Sys2Proof.Machine

/-- Why a step ends in a model fault (R323). None has a successor state. -/
inductive Fault where
  /-- Raised by every access whose device faults, a store to BIOS among them (R73, R76). Safe: the source calls it fatal. -/
  | deviceContractViolation
  /-- R323's reason for a register index outside 0..31. Raised by nothing: an index is a 5-bit field (R20; log 21). Safe. -/
  | internalInvariant
  /-- Raised by `fetch`: a fetch through KUSEG or KSEG0 of a word stored since its line was last flushed (R95). Safe. -/
  | staleInstructionFetch
  /-- Raised by MULT, MULTU, DIV, DIVU, MTHI and MTLO within two instructions of MFHI or MFLO (R201; log 9). Safe. -/
  | hiLoHazard
  deriving DecidableEq, Repr

/-- Why a step is refused (R323; log 10). None has a successor state. -/
inductive Refusal where
  /-- Raised by the arm of an instruction that has no meaning yet. Safe. No arm of this model does. -/
  | notModelled (mnemonic : String)
  /-- Raised by a REGIMM word whose `rt` is not one of the four branches (R109, R112). Safe. -/
  | regimmAlias
  /-- Raised by COP1, COP3, LWC1, LWC3, SWC1 and SWC3 when SR.CUz = 1 (R297, R298). Safe. -/
  | noCoprocessor
  /-- Raised by COP2, LWC2 and SWC2 when SR.CU2 = 1 (R297, R298). Safe. -/
  | cop2OutOfScope
  /-- Raised by LWC0 and SWC0 always (R298). Safe. -/
  | cop0LoadStore
  /-- Raised by MFC0 of a register other than 8, 12, 13, 14, 15 (R293) and MTC0 of a nonzero value to 7 (R295). Safe. -/
  | cop0RegisterUnmodelled
  /-- Raised by every fetch and data access in user mode with SR.RE = 1 (R83). Safe. -/
  | reverseEndian
  /-- Raised by every load while SR.IsC = 1 (R84). Safe. -/
  | isolatedCacheLoad
  /-- Raised by SWL and SWR to EXP1, IO, EXP2 or CACHECTL (R254). Safe. -/
  | partialStoreToDevice
  /-- Raised by a data access through KSEG1 that reaches SCRATCH and by any fetch that reaches SCRATCH (R96). Safe. -/
  | scratchpadAlias
  /-- Raised by JALR with `rd` = `rs` ≠ 0 (R226). Safe. -/
  | jalrLinkOverwritesTarget
  /-- Raised by BLTZAL and BGEZAL with `rs` = 31 (R233, R234). Safe. -/
  | linkRegisterAsCondition
  deriving DecidableEq, Repr

/-- The delay-slot register while it is valid: one delayed register write (R31; log 18). -/
structure PendingLoad where
  reg   : RegNum
  value : Word
  deriving DecidableEq, Repr

/-- The branch-delay slot while it is valid: one delayed control transfer (R32; log 18). `origin` is the address of the
branch or jump that issued it. -/
structure PendingBranch where
  taken  : Bool
  target : Word
  origin : Word
  deriving DecidableEq, Repr

/-- The bytes of the memory devices: a cell's address is its device's base plus its device offset (log 19). -/
abbrev Memory := List Host.Cell

/-- The canonical form of a memory: addresses strictly rising. A cell is listed from its first write on; an unlisted one has no
value of its own, so no entry says what an unlisted cell would (log 5). -/
abbrev Memory.wf (m : Memory) : Prop := m.Pairwise fun c d => c.1 < d.1

/-- A stored word that a cached instruction fetch may not yet see: a device and a word offset in it (R53). -/
abbrev StaleMark := Device × Nat

/-- The core's state between two steps. -/
structure State where
  /-- `x[0]`..`x[31]` (R20); entry 0 is read by nothing (R21). -/
  regs : Vector Word 32
  /-- HI (R25). -/
  hi : Word
  /-- LO (R25). -/
  lo : Word
  /-- The address of the instruction the next step fetches (R26). -/
  pc : Word
  /-- `next_pc`, which no rule reads between steps (R27; log 12). -/
  nextPc : Word
  /-- PendingLoad (R31). -/
  pendingLoad : Option PendingLoad
  /-- PendingBranch (R32). -/
  pendingBranch : Option PendingBranch
  /-- `hilo_age`, 0..2 (R33). -/
  hiloAge : Nat
  /-- SR, coprocessor-0 register 12 (R35). -/
  sr : Word
  /-- Cause, coprocessor-0 register 13 (R43). -/
  cause : Word
  /-- EPC, coprocessor-0 register 14 (R46). -/
  epc : Word
  /-- BadVaddr, coprocessor-0 register 8 (R47). -/
  badVaddr : Word
  /-- RAM, SCRATCH and BIOS (R75, R76). -/
  mem : Memory
  /-- `icache_stale` (R53, R95), in rising order. -/
  icacheStale : List StaleMark
  /-- The operations issued to the external devices, newest first (log 4, log 8). -/
  busLog : List BusOp
  /-- The values of `int_in[5:0]` the host has fixed for the coming steps; a step beyond them draws its own (R50; log 1). -/
  intLines : List (BitVec 6)
  /-- The counter of draws (log 8). -/
  tick : Nat
  deriving DecidableEq, Repr

/-- The state after power-on: the reset operation of R370 with no cell written, so that RAM and SCRATCH are draws and BIOS is the
image that the host has provided (R51, R370, R375; log 2, log 5, log 6, log 7). -/
def State.reset : State where
  regs := Vector.replicate 32 0
  hi := 0
  lo := 0
  pc := Config.resetPc
  nextPc := Config.resetPc + 4
  pendingLoad := none
  pendingBranch := none
  hiloAge := 0
  sr := Config.srReset
  cause := 0
  epc := Config.resetEpc 0
  badVaddr := Config.resetBadVaddr 0
  mem := []
  icacheStale := []
  busLog := []
  intLines := []
  tick := 0

end Sys2Proof.Machine
end

