-- ==== Sys2Proof/Machine/Flags.lean ====
section
/-! DEFINITION. The core has no status flags (10_state.md R30). Where another machine sets an overflow flag, this one raises
an exception: signed overflow of the trapping add and subtract (41_alu.md R161). -/

namespace Sys2Proof.Machine

/-- `v` is no 32-bit two's-complement value (R161). -/
def outsideSigned (v : Int) : Bool := v < -0x80000000 || 0x7FFFFFFF < v

/-- `add_ovf(a, b)`: the exact signed sum does not fit 32 bits (R161). -/
def addOvf (a b : Word) : Bool := outsideSigned (a.toInt + b.toInt)

/-- `sub_ovf(a, b)`: the exact signed difference does not fit 32 bits (R161). -/
def subOvf (a b : Word) : Bool := outsideSigned (a.toInt - b.toInt)

/-- The result of a comparison as a register value: 1 or 0 (R170, R171, R174, R175). -/
def boolWord (b : Bool) : Word := if b then 1 else 0

end Sys2Proof.Machine
end

