-- ==== Sys2Proof/Machine/Operands.lean ====
section
/-! DEFINITION. Operand forms: immediates (30_encoding.md R106), branch and jump targets (43_branch_jump.md R220), the extension
of loaded values, and the byte merges of LWL, LWR, SWL and SWR (44_load_store.md). -/

namespace Sys2Proof.Machine

/-- `sext_16(imm)` (R12, R106). -/
def sext16 (imm : BitVec 16) : Word := imm.signExtend 32

/-- `zext_16(imm)` (R12, R106). -/
def zext16 (imm : BitVec 16) : Word := imm.setWidth 32

/-- `imm << 16`, the operand of LUI (R106, R179). -/
def upper16 (imm : BitVec 16) : Word := imm ++ 0#16

/-- `btarget = pc + 4 + (sext_16(imm) << 2)` (R220). -/
def branchTarget (pc : Word) (imm : BitVec 16) : Word := pc + 4#32 + (sext16 imm <<< 2)

/-- `jtarget = (pc + 4)[31:28] || target || 0b00` (R220). -/
def jumpTarget (pc : Word) (target : BitVec 26) : Word := (pc + 4).extractLsb' 28 4 ++ target ++ 0#2

/-- The link value `pc + 8` (R220). -/
def linkAddress (pc : Word) : Word := pc + 8

/-- The shift amount `x[rs][4:0]` of the variable shifts (R106). -/
def shiftAmount (v : Word) : Nat := (v.extractLsb' 0 5).toNat

/-- The aligned word's address, `a & 0xFFFFFFFC` (R254, R260). -/
def wordAddress (a : Word) : Word := a &&& 0xFFFFFFFC

/-- `a[1:0]`. -/
def byteInWord (a : Word) : BitVec 2 := a.extractLsb' 0 2

/-- `sext_8(v[7:0])` (R255). -/
def signByte (v : Word) : Word := (v.extractLsb' 0 8).signExtend 32

/-- `zext_8(v[7:0])` (R256). -/
def zeroByte (v : Word) : Word := (v.extractLsb' 0 8).setWidth 32

/-- `sext_16(v[15:0])` (R257). -/
def signHalf (v : Word) : Word := (v.extractLsb' 0 16).signExtend 32

/-- `zext_16(v[15:0])` (R258). -/
def zeroHalf (v : Word) : Word := (v.extractLsb' 0 16).setWidth 32

/-- What LWL loads: the bytes from the aligned word `w`'s start up to `a`, at the most significant end of `cur` (R260). -/
def lwlMerge (a cur w : Word) : Word :=
  match byteInWord a with
  | 0 => (cur &&& 0x00FFFFFF#32) ||| (w <<< 24)
  | 1 => (cur &&& 0x0000FFFF#32) ||| (w <<< 16)
  | 2 => (cur &&& 0x000000FF#32) ||| (w <<< 8)
  | _ => w

/-- What LWR loads: the bytes from `a` up to the aligned word `w`'s end, at the least significant end of `cur` (R261). -/
def lwrMerge (a cur w : Word) : Word :=
  match byteInWord a with
  | 0 => w
  | 1 => (cur &&& 0xFF000000#32) ||| (w >>> 8)
  | 2 => (cur &&& 0xFFFF0000#32) ||| (w >>> 16)
  | _ => (cur &&& 0xFFFFFF00#32) ||| (w >>> 24)

/-- What SWL stores over the aligned word `m`: the most significant bytes of `v`, from the word's start up to `a` (R265). -/
def swlMerge (a v m : Word) : Word :=
  match byteInWord a with
  | 0 => (m &&& 0xFFFFFF00#32) ||| (v >>> 24)
  | 1 => (m &&& 0xFFFF0000#32) ||| (v >>> 16)
  | 2 => (m &&& 0xFF000000#32) ||| (v >>> 8)
  | _ => v

/-- What SWR stores over the aligned word `m`: the least significant bytes of `v`, from `a` up to the word's end (R266). -/
def swrMerge (a v m : Word) : Word :=
  match byteInWord a with
  | 0 => v
  | 1 => (m &&& 0x000000FF#32) ||| (v <<< 8)
  | 2 => (m &&& 0x0000FFFF#32) ||| (v <<< 16)
  | _ => (m &&& 0x00FFFFFF#32) ||| (v <<< 24)

end Sys2Proof.Machine
end

