-- ==== Sys2Proof/Machine/Ops.lean ====
section
/-! DEFINITION. The named operations every meaning is written over: registers and the commit of a step (40_step_cycle.md), taking
an exception and returning from one (60_exceptions.md), memory and the bus router (20_memory.md), instruction fetch, the
interrupt lines, and the host's power-on, reset and snapshot ports (70_reset_and_hazards.md, 10_state.md R52). -/

namespace Sys2Proof.Machine

/-- The outcome of a step or of a meaning (00_scope.md R15). A completed step carries its state alone: that it reports no trap cause
beside it, which R149 and R321 leave to a model, is the model's choice (log 31). -/
abbrev StepOutcome := Host.Outcome State Fault Refusal

/-! ## General registers (10_state.md R20, R21) -/

/-- Write register `r` of a register file; a write to register 0 is discarded (R21). -/
def setReg (regs : Vector Word 32) (r : RegNum) (v : Word) : Vector Word 32 :=
  if r = 0#5 then regs else regs.set r.toNat v r.isLt

/-- `x[r]`: register 0 reads as zero (R21). -/
def getReg (regs : Vector Word 32) (r : RegNum) : Word :=
  if r = 0#5 then 0 else regs[r.toNat]'r.isLt

/-- `x[r]` at the start of the step (00_scope.md R13, R135). -/
def State.readReg (s : State) (r : RegNum) : Word := getReg s.regs r

/-! ## SR (10_state.md R35 to R42) -/

/-- SR.IEc, bit 0. -/
def State.intEnabled (s : State) : Bool := s.sr.getLsbD 0

/-- SR.KUc, bit 1: user mode. -/
def State.userMode (s : State) : Bool := s.sr.getLsbD 1

/-- SR.IsC, bit 16: isolate cache. -/
def State.isolated (s : State) : Bool := s.sr.getLsbD 16

/-- SR.BEV, bit 22: boot exception vectors. -/
def State.bootVectors (s : State) : Bool := s.sr.getLsbD 22

/-- SR.KUc = 1 and SR.RE = 1 (bit 25): reverse endianness in user mode (20_memory.md R83). -/
def State.reversed (s : State) : Bool := s.userMode && s.sr.getLsbD 25

/-- SR.CUz, bit 28 + z. -/
def State.copEnabled (s : State) (z : BitVec 2) : Bool := s.sr.getLsbD (28 + z.toNat)

/-- `cop_usable(z)`: coprocessor 0 is always usable in kernel mode (45_system_cop.md R296). -/
def State.copUsable (s : State) (z : BitVec 2) : Bool :=
  if z = 0#2 then !s.userMode || s.copEnabled 0 else s.copEnabled z

/-- Exception entry's push of the privilege stack: `SR[5:0] <- SR[3:0] << 2` (R333). -/
def pushStack (sr : Word) : Word := (sr &&& 0xFFFFFFC0#32) ||| ((sr &&& 0x0000000F#32) <<< 2)

/-- The return from exception, RFE's pop of the privilege stack (45_system_cop.md R294). -/
def popStack (sr : Word) : Word := (sr &&& 0xFFFFFFF0#32) ||| ((sr >>> 2) &&& 0x0000000F#32)

/-! ## The commit of a completed step (40_step_cycle.md R139 to R146) -/

/-- What an instruction stages (00_scope.md R13, R136 to R140). -/
structure Staged where
  /-- A normal register write. -/
  write : Option (RegNum × Word) := none
  /-- A new pending load, `defer_load`. -/
  load : Option PendingLoad := none
  /-- A new pending branch, `branch_if`. -/
  branch : Option PendingBranch := none
  hi : Option Word := none
  lo : Option Word := none
  sr : Option Word := none
  cause : Option Word := none
  /-- The instruction is MFHI or MFLO (R146). -/
  movesHiLo : Bool := false
  deriving DecidableEq, Repr

/-- The instruction stages a normal write or a new load to `r` (R139). -/
def Staged.targets (e : Staged) (r : RegNum) : Bool :=
  (match e.write with | some w => w.1 == r | none => false)
    || (match e.load with | some l => l.reg == r | none => false)

/-- The register file after the carried-in load: written first, unless the instruction itself targets the same register
(R139). -/
def carriedRegs (s : State) (e : Staged) : Vector Word 32 :=
  match s.pendingLoad with
  | some l => if e.targets l.reg then s.regs else setReg s.regs l.reg l.value
  | none => s.regs

/-- The register file after a completed step (R139, R140). -/
def committedRegs (s : State) (e : Staged) : Vector Word 32 :=
  match e.write with
  | some w => setReg (carriedRegs s e) w.1 w.2
  | none => carriedRegs s e

/-- The address of the next fetch: the carried-in branch's target when it is taken, else `pc + 4` (R141). -/
def nextFetch (s : State) : Word :=
  match s.pendingBranch with
  | some b => if b.taken then b.target else s.pc + 4
  | none => s.pc + 4

/-- `step_commit` (R143) with the HI/LO read age of R146. -/
def commit (e : Staged) (s : State) : State :=
  { s with
    regs := committedRegs s e
    hi := e.hi.getD s.hi
    lo := e.lo.getD s.lo
    sr := e.sr.getD s.sr
    cause := e.cause.getD s.cause
    pc := nextFetch s
    nextPc := nextFetch s + 4
    pendingLoad := e.load
    pendingBranch := e.branch
    hiloAge := if e.movesHiLo then 2 else s.hiloAge - 1 }

/-- `branch_if(c, t)` issued by the instruction at `pc` (R138). -/
def branchIf (s : State) (c : Bool) (t : Word) : PendingBranch := ⟨c, t, s.pc⟩

/-! ## Taking an exception (40_step_cycle.md R145, 60_exceptions.md R320 to R337) -/

/-- The exceptions, with the address AdEL and AdES report and the coprocessor number of CpU (R320). -/
inductive Exc where
  | int
  | adEL (badVaddr : Word)
  | adES (badVaddr : Word)
  | ibe
  | dbe
  | sys
  | bp
  | ri
  | cpU (cop : BitVec 2)
  | ov
  deriving DecidableEq, Repr

/-- Cause.ExcCode (R320). -/
def Exc.code : Exc → BitVec 5
  | .int => 0
  | .adEL _ => 4
  | .adES _ => 5
  | .ibe => 6
  | .dbe => 7
  | .sys => 8
  | .bp => 9
  | .ri => 10
  | .cpU _ => 11
  | .ov => 12

/-- Cause.CE at entry: the coprocessor number for CpU, a draw for every other exception (R332; log 3). -/
def Exc.ce (e : Exc) (tick : Nat) : BitVec 2 :=
  match e with
  | .cpU z => z
  | _ => Config.causeCe tick

/-- BadVaddr at entry: written by AdEL and AdES only (R334). -/
def Exc.badVaddr (e : Exc) (old : Word) : Word :=
  match e with
  | .adEL a => a
  | .adES a => a
  | _ => old

/-- Cause at entry: BD, CE and ExcCode are written, IP[7:0] is kept, the other bits read 0 (R43, R332; log 28). -/
def causeAtEntry (bd : Bool) (ce : BitVec 2) (code : BitVec 5) (old : Word) : Word :=
  BitVec.ofBool bd ++ 0#1 ++ ce ++ 0#12 ++ old.extractLsb' 8 8 ++ 0#1 ++ code ++ 0#2

/-- The exception vector that SR.BEV selects (R335). -/
def vector (s : State) : Word := if s.bootVectors then Config.vecRom else Config.vecRam

/-- EPC at entry: the excepting instruction, or in a delay slot the branch that issued it (R331). -/
def epcAtEntry (s : State) : Word :=
  match s.pendingBranch with
  | some b => b.origin
  | none => s.pc

/-- The registers of an excepting step: the carried-in load completes, nothing else is written (R145). -/
def exceptionRegs (s : State) : Vector Word 32 :=
  match s.pendingLoad with
  | some l => setReg s.regs l.reg l.value
  | none => s.regs

/-- Taking exception `e` at the instruction at `pc`: the commit of R145, the entry of R330 and the HI/LO read age of R146. -/
def takeException (e : Exc) (s : State) : State :=
  { s with
    regs := exceptionRegs s
    pendingLoad := none
    pendingBranch := none
    epc := epcAtEntry s
    cause := causeAtEntry s.pendingBranch.isSome (e.ce s.tick) e.code s.cause
    badVaddr := e.badVaddr s.badVaddr
    sr := pushStack s.sr
    pc := vector s
    nextPc := vector s + 4
    hiloAge := s.hiloAge - 1 }

/-! ## Outcomes of the shared operations -/

/-- What an operation answers: a value, an exception (`raise`), a model fault or a refusal (00_scope.md R14). -/
inductive Res (α : Type) where
  | ok (a : α)
  | exc (e : Exc)
  | fault (f : Fault)
  | refuse (r : Refusal)
  deriving DecidableEq, Repr

/-- Go on with an operation's value; an exception is taken in the state `s` the instruction started from (R14, R136). -/
def Res.settle {α : Type} (s : State) (k : α → StepOutcome) : Res α → StepOutcome
  | .ok a => k a
  | .exc e => .next (takeException e s)
  | .fault f => .fault f
  | .refuse r => .refused r

/-! ## Bytes of memory (20_memory.md R74, R75; log 5, log 19) -/

/-- What a cell that the memory does not list reads as: the draw or the firmware byte it started with (R75, R76). -/
def Memory.unlisted (a : Nat) : Byte := Config.initialByte a

/-- The byte at an address. -/
def Memory.read : Memory → Nat → Byte
  | [], a => Memory.unlisted a
  | c :: m, a => if c.1 = a then c.2 else Memory.read m a

/-- Write one byte, keeping the canonical form. -/
def Memory.write : Memory → Nat → Byte → Memory
  | [], a, v => [(a, v)]
  | c :: m, a, v =>
    if a < c.1 then (a, v) :: c :: m
    else if a = c.1 then (a, v) :: m
    else c :: Memory.write m a v

/-- Write bytes from an address up, as a loader does. -/
def Memory.load (m : Memory) (a : Nat) : List Byte → Memory
  | [] => m
  | b :: bs => (Memory.load m (a + 1) bs).write a b

/-- A read of a width at an address, zero-extended: the lowest address holds the lowest byte (R74, R75). -/
def Memory.readN (m : Memory) (a : Nat) : Width → Word
  | .byte => (m.read a).setWidth 32
  | .half => (m.read (a + 1) ++ m.read a).setWidth 32
  | .word => wordOfBytes (m.read a) (m.read (a + 1)) (m.read (a + 2)) (m.read (a + 3))

/-- A write of a width at an address (R74, R75). -/
def Memory.writeN (m : Memory) (a : Nat) (v : Word) : Width → Memory
  | .byte => m.write a (v.extractLsb' 0 8)
  | .half => (m.write a (v.extractLsb' 0 8)).write (a + 1) (v.extractLsb' 8 8)
  | .word =>
    (((m.write a (v.extractLsb' 0 8)).write (a + 1) (v.extractLsb' 8 8)).write (a + 2) (v.extractLsb' 16 8)).write (a + 3)
      (v.extractLsb' 24 8)

/-- One byte of the memory devices, by cell address. -/
def State.readByte (s : State) (cell : Nat) : Byte := s.mem.read cell

/-! ## Translation and routing (20_memory.md R61 to R68) -/

/-- `vaddr[31:29]` (R61). -/
def segment (a : Word) : BitVec 3 := a.extractLsb' 29 3

/-- Segment folding (R62). -/
def foldAddress (a : Word) : Nat := (a &&& Config.segMask (segment a)).toNat

/-- The region claims the physical address (R67). -/
def Region.claims (r : Region) (p : Nat) : Bool := r.base ≤ p && p < r.base + r.window

/-- Where an access goes: a region and the offset in its device (R68). -/
structure Target where
  region : Region
  offset : Nat
  deriving DecidableEq, Repr

/-- The device of a target. -/
def Target.device (t : Target) : Device := t.region.device

/-- The cell address of a target in a memory device (log 19). -/
def Target.cell (t : Target) : Nat := t.region.base + t.offset

/-- The target of the physical address in a region: mirror folding (R68). -/
def targetIn (r : Region) (p : Nat) : Target := ⟨r, (p - r.base) % r.period⟩

/-- Fold and look up; `none` is an unmapped address (R62, R67, R68). -/
def route (a : Word) : Option Target :=
  match Config.regionTable.find? (fun r => Region.claims r (foldAddress a)) with
  | some r => some (targetIn r (foldAddress a))
  | none => none

/-- The data access goes to SCRATCH through KSEG1 (R96). -/
def scratchAlias (a : Word) (t : Target) : Bool := t.device = .scratch && segment a = 5#3

/-- The access is misaligned (R70). -/
def misaligned (w : Width) (a : Word) : Bool :=
  match w with
  | .byte => false
  | .half => a.extractLsb' 0 1 != 0
  | .word => a.extractLsb' 0 2 != 0

/-- A user-mode access to an address with bit 31 set (R64). -/
def State.forbids (s : State) (a : Word) : Bool := s.userMode && a.msb

/-! ## The device contract (20_memory.md R72 to R76) -/

/-- The low `8n` bits of a value, zero-extended (R72, R78; log 23). -/
def cutTo (w : Width) (v : Word) : Word :=
  match w with
  | .byte => zeroByte v
  | .half => zeroHalf v
  | .word => v

/-- An operation is issued to an external device (log 4). -/
def logBus (op : BusOp) (s : State) : State := { s with busLog := op :: s.busLog }

/-- `device.read(o, n)`: `none` is a device fault. Memory devices never fault on a read (R75, R76). -/
def deviceRead (s : State) (t : Target) (w : Width) : Option (Word × State) :=
  if t.device.isMemory then some (s.mem.readN t.cell w, s)
  else
    match Config.deviceAnswer s.tick s.busLog (.read t.device t.offset w) with
    | some v => some (cutTo w v, logBus (.read t.device t.offset w) s)
    | none => none

/-- Replace the memory devices' bytes. -/
def setMem (m : Memory) (s : State) : State := { s with mem := m }

/-- `device.write(o, n, v)`: `none` is a device fault; every write to BIOS is one (R75, R76). -/
def deviceWrite (s : State) (t : Target) (w : Width) (v : Word) : Option State :=
  if t.device.isWritable then some (setMem (s.mem.writeN t.cell v w) s)
  else if t.device.isMemory then none
  else
    match Config.deviceAnswer s.tick s.busLog (.write t.device t.offset w (cutTo w v)) with
    | some _ => some (logBus (.write t.device t.offset w (cutTo w v)) s)
    | none => none

/-! ## The instruction-cache hazard (20_memory.md R95) -/

/-- The order in which stale marks are listed. -/
def markBefore (k m : StaleMark) : Bool :=
  k.1.index < m.1.index || (k.1.index = m.1.index && k.2 < m.2)

/-- Add a mark to a set of marks in rising order. -/
def insertMark (k : StaleMark) : List StaleMark → List StaleMark
  | [] => [k]
  | m :: ms =>
    if markBefore k m then k :: m :: ms
    else if k = m then m :: ms
    else m :: insertMark k ms

/-- The word that holds the offset: `(d, o & ~3)`. -/
def markOf (t : Target) : StaleMark := (t.device, t.offset / 4 * 4)

/-- `icache_note_store(d, o)`. -/
def noteStore (t : Target) (s : State) : State := { s with icacheStale := insertMark (markOf t) s.icacheStale }

/-- The line index of a mark, `w[11:4]`. -/
def markLine (m : StaleMark) : Nat := m.2 / 16 % 256

/-- The line index of a logical address, `a[11:4]`. -/
def addressLine (a : Word) : Nat := (a.extractLsb' 4 8).toNat

/-- `icache_invalidate(a)`. -/
def invalidateLine (a : Word) (s : State) : State :=
  { s with icacheStale := s.icacheStale.filter fun m => markLine m != addressLine a }

/-! ## Access primitives (20_memory.md R78, R79, 44_load_store.md R254) -/

/-- `MemRead(a, n)`. `bad` is the address an address error reports: the effective address, which for LWL and LWR is not the
aligned word's (R334; log 17). -/
def memRead (s : State) (bad a : Word) (w : Width) : Res (Word × State) :=
  if misaligned w a then .exc (.adEL bad)
  else if s.forbids a then .exc (.adEL bad)
  else if s.reversed then .refuse .reverseEndian
  else if s.isolated then .refuse .isolatedCacheLoad
  else
    match route a with
    | none => .exc .dbe
    | some t =>
      if scratchAlias a t then .refuse .scratchpadAlias
      else
        match deviceRead s t w with
        | some r => .ok r
        | none => .fault .deviceContractViolation

/-- `MemWrite(a, n, v)`. -/
def memWrite (s : State) (a : Word) (w : Width) (v : Word) : Res State :=
  if misaligned w a then .exc (.adES a)
  else if s.forbids a then .exc (.adES a)
  else if s.reversed then .refuse .reverseEndian
  else if s.isolated then .ok (invalidateLine a s)
  else
    match route a with
    | none => .exc .dbe
    | some t =>
      if scratchAlias a t then .refuse .scratchpadAlias
      else
        match deviceWrite s t w v with
        | some s' => .ok (noteStore t s')
        | none => .fault .deviceContractViolation

/-- `MemMerge(a, f)`: read the aligned word that holds `a` and write `f` of it back (R254). -/
def memMerge (s : State) (a : Word) (f : Word → Word) : Res State :=
  if s.forbids a then .exc (.adES a)
  else if s.reversed then .refuse .reverseEndian
  else if s.isolated then .ok (invalidateLine a s)
  else
    match route (wordAddress a) with
    | none => .exc .dbe
    | some t =>
      if scratchAlias (wordAddress a) t then .refuse .scratchpadAlias
      else if !t.device.isMemory then .refuse .partialStoreToDevice
      else
        match deviceWrite s t .word (f (s.mem.readN t.cell .word)) with
        | some s' => .ok (noteStore t s')
        | none => .fault .deviceContractViolation

/-- `Fetch(pc)` (R79). SR.IsC does not affect it. -/
def fetch (s : State) : Res (Word × State) :=
  if misaligned .word s.pc then .exc (.adEL s.pc)
  else if s.forbids s.pc then .exc (.adEL s.pc)
  else if s.reversed then .refuse .reverseEndian
  else
    match route s.pc with
    | none => .exc .ibe
    | some t =>
      if t.device = .scratch then .refuse .scratchpadAlias
      else if segment s.pc ≤ 4 && s.icacheStale.contains (t.device, t.offset) then .fault .staleInstructionFetch
      else
        match deviceRead s t .word with
        | some r => .ok r
        | none => .fault .deviceContractViolation

/-! ## Shapes of a meaning -/

/-- Stage and commit: an instruction with no access and no exception of its own. -/
def complete (e : Staged) (s : State) : StepOutcome := .next (commit e s)

/-- An instruction whose whole effect is a normal write of `v` to `r` (R160). -/
def completeWrite (r : RegNum) (v : Word) (s : State) : StepOutcome := complete { write := some (r, v) } s

/-- An instruction that takes exception `e`. Its code stays in Cause; the outcome does not repeat it (R321; log 31). -/
def raise (e : Exc) (s : State) : StepOutcome := .next (takeException e s)

/-- The effective address `x[rs] + sext_16(imm)` (R250). -/
def effectiveAddress (s : State) (rs : RegNum) (imm : BitVec 16) : Word := s.readReg rs + sext16 imm

/-- The load path: read, then stage the extended or merged value as a pending load (R251). -/
def loadInto (s : State) (rt : RegNum) (bad a : Word) (w : Width) (f : Word → Word) : StepOutcome :=
  (memRead s bad a w).settle s fun r => complete { load := some ⟨rt, f r.1⟩ } r.2

/-- The store path: the write happens during the step, and nothing is staged (R252). -/
def storeTo (s : State) (r : Res State) : StepOutcome := r.settle s fun s' => complete {} s'

/-- The bytes of `rt` that LWL and LWR keep: from the carried-in load when it is to `rt` (R253). -/
def mergeBase (s : State) (rt : RegNum) : Word :=
  match s.pendingLoad with
  | some l => if l.reg = rt then l.value else s.readReg rt
  | none => s.readReg rt

/-! ## Interrupts (10_state.md R44, R50, 60_exceptions.md R345) -/

/-- `int_in[5:0]` at this step: what the host has fixed, else a draw (log 1). -/
def State.lines (s : State) : BitVec 6 :=
  match s.intLines with
  | l :: _ => l
  | [] => Config.intIn s.tick

/-- Cause with IP[7:2] taken from the lines (R44). -/
def causeWithLines (cause : Word) (lines : BitVec 6) : Word :=
  (cause &&& 0xFFFF03FF#32) ||| (lines.setWidth 32 <<< 10)

/-- The start of a step: sample the lines and move on to the next draw (R131; log 8). -/
def sampleInputs (s : State) : State :=
  { s with cause := causeWithLines s.cause s.lines, intLines := s.intLines.tail, tick := s.tick + 1 }

/-- `int_pending`: IEc and some pending, unmasked IP bit (R345). -/
def State.intPending (s : State) : Bool :=
  s.intEnabled && (s.cause.extractLsb' 8 8 &&& s.sr.extractLsb' 8 8) != 0

/-- The interrupt is recognised at this step: pending, and the step is no delay slot (R132). -/
def interruptDue (s : State) : Bool := s.pendingBranch.isNone && s.intPending

/-! ## The host's ports -/

/-- The reset operation between steps (R370): memory and the devices are untouched; EPC and BadVaddr are draws (log 2, log 29). -/
def State.hostReset (s : State) : State :=
  { State.reset with
    epc := Config.resetEpc s.tick
    badVaddr := Config.resetBadVaddr s.tick
    mem := s.mem
    busLog := s.busLog
    intLines := s.intLines
    tick := s.tick }

/-- Constructing the core for power-on (70_reset_and_hazards.md R370, R375): the host provides the firmware image and the
interrupt lines, and the region table must be well formed (20_memory.md R65). `none` is the load failure that is surfaced to
whoever constructs the core: there is no state, and so no step (log 32). -/
def State.powerOn (image : List Byte) (lines : List (BitVec 6)) : Option State :=
  if regionTableWf Config.regionTable ∧ 0 < image.length ∧ image.length ≤ Config.biosSize then
    some { State.reset with mem := Memory.load [] Config.biosBase image, intLines := lines }
  else none

/-- What the snapshot port returns (R52). -/
structure Snapshot where
  x        : Vector Word 32
  pc       : Word
  nextPc   : Word
  hi       : Word
  lo       : Word
  sr       : Word
  cause    : Word
  epc      : Word
  badVaddr : Word
  prid     : Word
  deriving DecidableEq, Repr

/-- The snapshot port: it changes no state (R52). -/
def State.snapshot (s : State) : Snapshot where
  x := s.regs.set 0 0
  pc := s.pc
  nextPc := s.nextPc
  hi := s.hi
  lo := s.lo
  sr := s.sr
  cause := s.cause
  epc := s.epc
  badVaddr := s.badVaddr
  prid := Config.pridValue

/-- The cycle count returned beside a completed step (R149; log 11). -/
def State.cycles (s : State) : Nat := Config.cycles s.tick

/-- Place an instruction word where the next step fetches it, when `pc` lies in a memory device (log 6). The word's stale mark
goes, as after a loader's flush (R377). -/
def placeWord (s : State) (w : Word) : State :=
  match route s.pc with
  | some t =>
    if t.device.isMemory then
      { s with
        mem := s.mem.writeN t.cell w .word
        icacheStale := s.icacheStale.filter fun m => m != (t.device, t.offset) }
    else s
  | none => s

end Sys2Proof.Machine
end

