-- ==== Sys2Proof/Machine/Alu.lean ====
section
/-! DEFINITION. Integer ALU instructions (41_alu.md). Every operand is read at the start of the step, and at most one normal
write is staged (R160). -/

namespace Sys2Proof.Machine

/-- The trapping results: raise Ov instead of writing (R161). -/
def completeOrOverflow (overflows : Bool) (r : RegNum) (v : Word) (s : State) : StepOutcome :=
  if overflows then raise .ov s else completeWrite r v s

/-- SLL (R180). -/
def execSll (rd rt : RegNum) (shamt : BitVec 5) (s : State) : StepOutcome :=
  completeWrite rd (s.readReg rt <<< shamt.toNat) s

/-- SRL (R181). -/
def execSrl (rd rt : RegNum) (shamt : BitVec 5) (s : State) : StepOutcome :=
  completeWrite rd (s.readReg rt >>> shamt.toNat) s

/-- SRA (R182). -/
def execSra (rd rt : RegNum) (shamt : BitVec 5) (s : State) : StepOutcome :=
  completeWrite rd ((s.readReg rt).sshiftRight shamt.toNat) s

/-- SLLV (R183). -/
def execSllv (rd rt rs : RegNum) (s : State) : StepOutcome :=
  completeWrite rd (s.readReg rt <<< shiftAmount (s.readReg rs)) s

/-- SRLV (R184). -/
def execSrlv (rd rt rs : RegNum) (s : State) : StepOutcome :=
  completeWrite rd (s.readReg rt >>> shiftAmount (s.readReg rs)) s

/-- SRAV (R185). -/
def execSrav (rd rt rs : RegNum) (s : State) : StepOutcome :=
  completeWrite rd ((s.readReg rt).sshiftRight (shiftAmount (s.readReg rs))) s

/-- ADD (R162). -/
def execAdd (rd rs rt : RegNum) (s : State) : StepOutcome :=
  completeOrOverflow (addOvf (s.readReg rs) (s.readReg rt)) rd (s.readReg rs + s.readReg rt) s

/-- ADDU (R163). -/
def execAddu (rd rs rt : RegNum) (s : State) : StepOutcome :=
  completeWrite rd (s.readReg rs + s.readReg rt) s

/-- SUB (R164). -/
def execSub (rd rs rt : RegNum) (s : State) : StepOutcome :=
  completeOrOverflow (subOvf (s.readReg rs) (s.readReg rt)) rd (s.readReg rs - s.readReg rt) s

/-- SUBU (R165). -/
def execSubu (rd rs rt : RegNum) (s : State) : StepOutcome :=
  completeWrite rd (s.readReg rs - s.readReg rt) s

/-- AND (R166). -/
def execAnd (rd rs rt : RegNum) (s : State) : StepOutcome :=
  completeWrite rd (s.readReg rs &&& s.readReg rt) s

/-- OR (R167). -/
def execOr (rd rs rt : RegNum) (s : State) : StepOutcome :=
  completeWrite rd (s.readReg rs ||| s.readReg rt) s

/-- XOR (R168). -/
def execXor (rd rs rt : RegNum) (s : State) : StepOutcome :=
  completeWrite rd (s.readReg rs ^^^ s.readReg rt) s

/-- NOR (R169). -/
def execNor (rd rs rt : RegNum) (s : State) : StepOutcome :=
  completeWrite rd (~~~(s.readReg rs ||| s.readReg rt)) s

/-- SLT (R170). -/
def execSlt (rd rs rt : RegNum) (s : State) : StepOutcome :=
  completeWrite rd (boolWord ((s.readReg rs).slt (s.readReg rt))) s

/-- SLTU (R171). -/
def execSltu (rd rs rt : RegNum) (s : State) : StepOutcome :=
  completeWrite rd (boolWord ((s.readReg rs).ult (s.readReg rt))) s

/-- ADDI (R172). -/
def execAddi (rt rs : RegNum) (imm : BitVec 16) (s : State) : StepOutcome :=
  completeOrOverflow (addOvf (s.readReg rs) (sext16 imm)) rt (s.readReg rs + sext16 imm) s

/-- ADDIU (R173). -/
def execAddiu (rt rs : RegNum) (imm : BitVec 16) (s : State) : StepOutcome :=
  completeWrite rt (s.readReg rs + sext16 imm) s

/-- SLTI (R174). -/
def execSlti (rt rs : RegNum) (imm : BitVec 16) (s : State) : StepOutcome :=
  completeWrite rt (boolWord ((s.readReg rs).slt (sext16 imm))) s

/-- SLTIU: the sign-extended immediate, compared unsigned (R175). -/
def execSltiu (rt rs : RegNum) (imm : BitVec 16) (s : State) : StepOutcome :=
  completeWrite rt (boolWord ((s.readReg rs).ult (sext16 imm))) s

/-- ANDI (R176). -/
def execAndi (rt rs : RegNum) (imm : BitVec 16) (s : State) : StepOutcome :=
  completeWrite rt (s.readReg rs &&& zext16 imm) s

/-- ORI (R177). -/
def execOri (rt rs : RegNum) (imm : BitVec 16) (s : State) : StepOutcome :=
  completeWrite rt (s.readReg rs ||| zext16 imm) s

/-- XORI (R178). -/
def execXori (rt rs : RegNum) (imm : BitVec 16) (s : State) : StepOutcome :=
  completeWrite rt (s.readReg rs ^^^ zext16 imm) s

/-- LUI (R179). -/
def execLui (rt : RegNum) (imm : BitVec 16) (s : State) : StepOutcome :=
  completeWrite rt (upper16 imm) s

end Sys2Proof.Machine
end

