-- ==== Sys2Proof/Machine/Branch.lean ====
section
/-! DEFINITION. Branches and jumps (43_branch_jump.md). Each stages a pending branch, taken or not (R138, R222); none raises an
exception itself (R221). -/

namespace Sys2Proof.Machine

/-- A conditional branch without a link (R227 to R232). -/
def completeBranch (c : Bool) (imm : BitVec 16) (s : State) : StepOutcome :=
  complete { branch := some (branchIf s c (branchTarget s.pc imm)) } s

/-- A jump to `t` that links in `r` (R224, R226). -/
def completeJumpLink (r : RegNum) (t : Word) (s : State) : StepOutcome :=
  complete { write := some (r, linkAddress s.pc), branch := some (branchIf s true t) } s

/-- A conditional branch that links in register 31, taken or not; refused when it tests register 31 (R233, R234; log 10). -/
def completeBranchLink (rs : RegNum) (c : Bool) (imm : BitVec 16) (s : State) : StepOutcome :=
  if rs = 31#5 then .refused .linkRegisterAsCondition
  else complete { write := some (31, linkAddress s.pc), branch := some (branchIf s c (branchTarget s.pc imm)) } s

/-- J (R223). -/
def execJ (target : BitVec 26) (s : State) : StepOutcome :=
  complete { branch := some (branchIf s true (jumpTarget s.pc target)) } s

/-- JAL (R224). -/
def execJal (target : BitVec 26) (s : State) : StepOutcome :=
  completeJumpLink 31 (jumpTarget s.pc target) s

/-- JR (R225). -/
def execJr (rs : RegNum) (s : State) : StepOutcome :=
  complete { branch := some (branchIf s true (s.readReg rs)) } s

/-- JALR; refused when `rd` = `rs` ≠ 0 (R226; log 10). -/
def execJalr (rd rs : RegNum) (s : State) : StepOutcome :=
  if rd = rs ∧ rd ≠ 0#5 then .refused .jalrLinkOverwritesTarget
  else completeJumpLink rd (s.readReg rs) s

/-- BEQ (R227). -/
def execBeq (rs rt : RegNum) (imm : BitVec 16) (s : State) : StepOutcome :=
  completeBranch (s.readReg rs == s.readReg rt) imm s

/-- BNE (R228). -/
def execBne (rs rt : RegNum) (imm : BitVec 16) (s : State) : StepOutcome :=
  completeBranch (s.readReg rs != s.readReg rt) imm s

/-- BLEZ (R229). -/
def execBlez (rs : RegNum) (imm : BitVec 16) (s : State) : StepOutcome :=
  completeBranch ((s.readReg rs).toInt ≤ 0) imm s

/-- BGTZ (R230). -/
def execBgtz (rs : RegNum) (imm : BitVec 16) (s : State) : StepOutcome :=
  completeBranch (0 < (s.readReg rs).toInt) imm s

/-- BLTZ (R231). -/
def execBltz (rs : RegNum) (imm : BitVec 16) (s : State) : StepOutcome :=
  completeBranch ((s.readReg rs).toInt < 0) imm s

/-- BGEZ (R232). -/
def execBgez (rs : RegNum) (imm : BitVec 16) (s : State) : StepOutcome :=
  completeBranch (0 ≤ (s.readReg rs).toInt) imm s

/-- BLTZAL (R233). -/
def execBltzal (rs : RegNum) (imm : BitVec 16) (s : State) : StepOutcome :=
  completeBranchLink rs ((s.readReg rs).toInt < 0) imm s

/-- BGEZAL (R234). -/
def execBgezal (rs : RegNum) (imm : BitVec 16) (s : State) : StepOutcome :=
  completeBranchLink rs (0 ≤ (s.readReg rs).toInt) imm s

end Sys2Proof.Machine
end

