-- ==== Sys2Proof/Machine/LoadStore.lean ====
section
/-! DEFINITION. Loads and stores (44_load_store.md): loads deliver through the delay-slot register (R251), stores write during
their own step (R252). -/

namespace Sys2Proof.Machine

/-- A load of width `w` at the effective address (R250, R251). -/
def loadAt (rt : RegNum) (imm : BitVec 16) (rs : RegNum) (w : Width) (f : Word → Word) (s : State) : StepOutcome :=
  loadInto s rt (effectiveAddress s rs imm) (effectiveAddress s rs imm) w f

/-- A load that merges bytes of the aligned word into `rt` (R253, R260, R261). -/
def loadMerge (rt : RegNum) (imm : BitVec 16) (rs : RegNum) (merge : Word → Word → Word → Word) (s : State) : StepOutcome :=
  loadInto s rt (effectiveAddress s rs imm) (wordAddress (effectiveAddress s rs imm)) .word
    (merge (effectiveAddress s rs imm) (mergeBase s rt))

/-- A store of width `w` at the effective address (R250, R252). -/
def storeAt (rt : RegNum) (imm : BitVec 16) (rs : RegNum) (w : Width) (s : State) : StepOutcome :=
  storeTo s (memWrite s (effectiveAddress s rs imm) w (s.readReg rt))

/-- A store that merges bytes of `rt` into the aligned word (R254, R265, R266). -/
def storeMerge (rt : RegNum) (imm : BitVec 16) (rs : RegNum) (merge : Word → Word → Word → Word) (s : State) : StepOutcome :=
  storeTo s (memMerge s (effectiveAddress s rs imm) (merge (effectiveAddress s rs imm) (s.readReg rt)))

/-- LB (R255). -/
def execLb (rt : RegNum) (imm : BitVec 16) (rs : RegNum) (s : State) : StepOutcome := loadAt rt imm rs .byte signByte s

/-- LBU (R256). -/
def execLbu (rt : RegNum) (imm : BitVec 16) (rs : RegNum) (s : State) : StepOutcome := loadAt rt imm rs .byte zeroByte s

/-- LH (R257). -/
def execLh (rt : RegNum) (imm : BitVec 16) (rs : RegNum) (s : State) : StepOutcome := loadAt rt imm rs .half signHalf s

/-- LHU (R258). -/
def execLhu (rt : RegNum) (imm : BitVec 16) (rs : RegNum) (s : State) : StepOutcome := loadAt rt imm rs .half zeroHalf s

/-- LW (R259). -/
def execLw (rt : RegNum) (imm : BitVec 16) (rs : RegNum) (s : State) : StepOutcome := loadAt rt imm rs .word (fun v => v) s

/-- LWL (R260). -/
def execLwl (rt : RegNum) (imm : BitVec 16) (rs : RegNum) (s : State) : StepOutcome := loadMerge rt imm rs lwlMerge s

/-- LWR (R261). -/
def execLwr (rt : RegNum) (imm : BitVec 16) (rs : RegNum) (s : State) : StepOutcome := loadMerge rt imm rs lwrMerge s

/-- SB (R262). -/
def execSb (rt : RegNum) (imm : BitVec 16) (rs : RegNum) (s : State) : StepOutcome := storeAt rt imm rs .byte s

/-- SH (R263). -/
def execSh (rt : RegNum) (imm : BitVec 16) (rs : RegNum) (s : State) : StepOutcome := storeAt rt imm rs .half s

/-- SW (R264). -/
def execSw (rt : RegNum) (imm : BitVec 16) (rs : RegNum) (s : State) : StepOutcome := storeAt rt imm rs .word s

/-- SWL (R265). -/
def execSwl (rt : RegNum) (imm : BitVec 16) (rs : RegNum) (s : State) : StepOutcome := storeMerge rt imm rs swlMerge s

/-- SWR (R266). -/
def execSwr (rt : RegNum) (imm : BitVec 16) (rs : RegNum) (s : State) : StepOutcome := storeMerge rt imm rs swrMerge s

end Sys2Proof.Machine
end

