-- ==== Sys2Proof/Machine/MulDiv.lean ====
section
/-! DEFINITION. Multiply, divide and the HI/LO moves (42_muldiv.md). None raises an exception (R200). -/

namespace Sys2Proof.Machine

/-- A HI/LO write with the hazard check of R201, made before anything is computed (log 9). -/
def writeHiLo (e : Staged) (s : State) : StepOutcome :=
  if 0 < s.hiloAge then .fault .hiLoHazard else complete e s

/-- `p modulo 2^64`, split over HI and LO (R202, R203). -/
def stageProduct (p : Int) : Staged :=
  { hi := some ((BitVec.ofInt 64 p).extractLsb' 32 32), lo := some ((BitVec.ofInt 64 p).extractLsb' 0 32) }

/-- The quotient DIV leaves in LO (R204; log 24). -/
def divQuotient (a b : Word) : Word :=
  if b = 0#32 then (if 0 ≤ a.toInt then 0xFFFFFFFF else 0x00000001)
  else if a = 0x80000000#32 ∧ b = 0xFFFFFFFF#32 then 0x80000000
  else BitVec.ofInt 32 (a.toInt.tdiv b.toInt)

/-- The remainder DIV leaves in HI (R204; log 24). -/
def divRemainder (a b : Word) : Word :=
  if b = 0#32 then a
  else if a = 0x80000000#32 ∧ b = 0xFFFFFFFF#32 then 0
  else BitVec.ofInt 32 (a.toInt.tmod b.toInt)

/-- The quotient DIVU leaves in LO (R205; log 24). -/
def divuQuotient (a b : Word) : Word :=
  if b = 0#32 then 0xFFFFFFFF else BitVec.ofNat 32 (a.toNat / b.toNat)

/-- The remainder DIVU leaves in HI (R205; log 24). -/
def divuRemainder (a b : Word) : Word :=
  if b = 0#32 then a else BitVec.ofNat 32 (a.toNat % b.toNat)

/-- MULT (R202). -/
def execMult (rs rt : RegNum) (s : State) : StepOutcome :=
  writeHiLo (stageProduct ((s.readReg rs).toInt * (s.readReg rt).toInt)) s

/-- MULTU (R203). -/
def execMultu (rs rt : RegNum) (s : State) : StepOutcome :=
  writeHiLo (stageProduct ((s.readReg rs).toNat * (s.readReg rt).toNat)) s

/-- DIV (R204). -/
def execDiv (rs rt : RegNum) (s : State) : StepOutcome :=
  writeHiLo { lo := some (divQuotient (s.readReg rs) (s.readReg rt)),
              hi := some (divRemainder (s.readReg rs) (s.readReg rt)) } s

/-- DIVU (R205). -/
def execDivu (rs rt : RegNum) (s : State) : StepOutcome :=
  writeHiLo { lo := some (divuQuotient (s.readReg rs) (s.readReg rt)),
              hi := some (divuRemainder (s.readReg rs) (s.readReg rt)) } s

/-- MFHI: a normal write, and the read age becomes 2 (R206). -/
def execMfhi (rd : RegNum) (s : State) : StepOutcome :=
  complete { write := some (rd, s.hi), movesHiLo := true } s

/-- MFLO (R207). -/
def execMflo (rd : RegNum) (s : State) : StepOutcome :=
  complete { write := some (rd, s.lo), movesHiLo := true } s

/-- MTHI (R208). -/
def execMthi (rs : RegNum) (s : State) : StepOutcome :=
  writeHiLo { hi := some (s.readReg rs) } s

/-- MTLO (R209). -/
def execMtlo (rs : RegNum) (s : State) : StepOutcome :=
  writeHiLo { lo := some (s.readReg rs) } s

end Sys2Proof.Machine
end

