-- ==== Sys2Proof/WellFormed.lean ====
section
/-! DEFINITION. Which instructions have a form the spec gives a meaning to (log 27). Field widths need no check: they are
types. What is left is the refusals that the word alone decides (30_encoding.md R112, 60_exceptions.md R340 stage 3). -/

namespace Sys2Proof

/-- The coprocessor-0 registers that MFC0 reads: BadVaddr, SR, Cause, EPC and PRId (10_state.md R34). -/
def readableCop0 (rd : RegNum) : Bool :=
  rd = 8#5 || rd = 12#5 || rd = 13#5 || rd = 14#5 || rd = 15#5

/-- False for the forms that are refused whatever the state: JALR with `rd` = `rs` ≠ 0 (R226), BLTZAL and BGEZAL with
`rs` = 31 (R233, R234), MFC0 of an unmodelled register once it is usable (R293), LWC0 and SWC0 (R298). -/
def Instr.wellFormed : Instr → Bool
  | .sll _ _ _ => true
  | .srl _ _ _ => true
  | .sra _ _ _ => true
  | .sllv _ _ _ => true
  | .srlv _ _ _ => true
  | .srav _ _ _ => true
  | .add _ _ _ => true
  | .addu _ _ _ => true
  | .sub _ _ _ => true
  | .subu _ _ _ => true
  | .and _ _ _ => true
  | .or _ _ _ => true
  | .xor _ _ _ => true
  | .nor _ _ _ => true
  | .slt _ _ _ => true
  | .sltu _ _ _ => true
  | .addi _ _ _ => true
  | .addiu _ _ _ => true
  | .slti _ _ _ => true
  | .sltiu _ _ _ => true
  | .andi _ _ _ => true
  | .ori _ _ _ => true
  | .xori _ _ _ => true
  | .lui _ _ => true
  | .mult _ _ => true
  | .multu _ _ => true
  | .div _ _ => true
  | .divu _ _ => true
  | .mfhi _ => true
  | .mflo _ => true
  | .mthi _ => true
  | .mtlo _ => true
  | .j _ => true
  | .jal _ => true
  | .jr _ => true
  | .jalr rd rs => rd != rs || rd == 0#5
  | .beq _ _ _ => true
  | .bne _ _ _ => true
  | .blez _ _ => true
  | .bgtz _ _ => true
  | .bltz _ _ => true
  | .bgez _ _ => true
  | .bltzal rs _ => rs != 31#5
  | .bgezal rs _ => rs != 31#5
  | .lb _ _ _ => true
  | .lbu _ _ _ => true
  | .lh _ _ _ => true
  | .lhu _ _ _ => true
  | .lw _ _ _ => true
  | .lwl _ _ _ => true
  | .lwr _ _ _ => true
  | .sb _ _ _ => true
  | .sh _ _ _ => true
  | .sw _ _ _ => true
  | .swl _ _ _ => true
  | .swr _ _ _ => true
  | .syscall _ => true
  | .brk _ => true
  | .mfc0 _ rd => readableCop0 rd
  | .mtc0 _ _ => true
  | .rfe => true
  | .cop1 _ => true
  | .cop2 _ => true
  | .cop3 _ => true
  | .lwc0 _ _ _ => false
  | .lwc1 _ _ _ => true
  | .lwc2 _ _ _ => true
  | .lwc3 _ _ _ => true
  | .swc0 _ _ _ => false
  | .swc1 _ _ _ => true
  | .swc2 _ _ _ => true
  | .swc3 _ _ _ => true

end Sys2Proof
end

