-- ==== Sys2Proof/Machine/System.lean ====
section
/-! DEFINITION. Software traps, coprocessor 0 and the other coprocessors (45_system_cop.md), and what a word that is no
instruction of the table does (30_encoding.md R111, R112). -/

namespace Sys2Proof.Machine

/-- The coprocessor-usable check of R296: CpU unless coprocessor `z` is usable. -/
def whenUsable (z : BitVec 2) (s : State) (k : StepOutcome) : StepOutcome :=
  if s.copUsable z then k else raise (.cpU z) s

/-- A coprocessor instruction of an absent or undescribed coprocessor: CpU when it is not usable, else refused with `r`, before
any operand is read or memory accessed (R297, R298; log 10). -/
def refuseCop (z : BitVec 2) (r : Refusal) (s : State) : StepOutcome := whenUsable z s (.refused r)

/-- SYSCALL (R291). -/
def execSyscall (s : State) : StepOutcome := raise .sys s

/-- BREAK (R292). -/
def execBrk (s : State) : StepOutcome := raise .bp s

/-- The value MFC0 reads from a coprocessor-0 register (R34, R293). -/
def readCop0 (s : State) (rd : RegNum) : Option Word :=
  if rd = 8#5 then some s.badVaddr
  else if rd = 12#5 then some s.sr
  else if rd = 13#5 then some s.cause
  else if rd = 14#5 then some s.epc
  else if rd = 15#5 then some Config.pridValue
  else none

/-- MFC0: delivered like a load (R293). -/
def execMfc0 (rt rd : RegNum) (s : State) : StepOutcome :=
  whenUsable 0 s <|
    match readCop0 s rd with
    | some v => complete { load := some ⟨rt, v⟩ } s
    | none => .refused .cop0RegisterUnmodelled

/-- What MTC0 of `v` stages; `none` is the refused nonzero write to breakpoint control (R34, R45, R295). -/
def stageCop0 (s : State) (rd : RegNum) (v : Word) : Option Staged :=
  if rd = 12#5 then some { sr := some v }
  else if rd = 13#5 then some { cause := some ((s.cause &&& 0xFFFFFCFF#32) ||| (v &&& 0x00000300#32)) }
  else if rd = 7#5 ∧ v ≠ 0#32 then none
  else some {}

/-- MTC0: applied at the commit of its own step (R290, R295; log 13). -/
def execMtc0 (rt rd : RegNum) (s : State) : StepOutcome :=
  whenUsable 0 s <|
    match stageCop0 s rd (s.readReg rt) with
    | some e => complete e s
    | none => .refused .cop0RegisterUnmodelled

/-- RFE: pops the privilege stack and touches no program counter (R294, R350). -/
def execRfe (s : State) : StepOutcome :=
  whenUsable 0 s (complete { sr := some (popStack s.sr) } s)

/-- COP1 (R297). -/
def execCop1 (s : State) : StepOutcome := refuseCop 1 .noCoprocessor s

/-- COP2 (R297). -/
def execCop2 (s : State) : StepOutcome := refuseCop 2 .cop2OutOfScope s

/-- COP3 (R297). -/
def execCop3 (s : State) : StepOutcome := refuseCop 3 .noCoprocessor s

/-- LWC0: always refused (R298; log 10). -/
def execLwc0 (_s : State) : StepOutcome := .refused .cop0LoadStore

/-- LWC1 (R298). -/
def execLwc1 (s : State) : StepOutcome := refuseCop 1 .noCoprocessor s

/-- LWC2 (R298). -/
def execLwc2 (s : State) : StepOutcome := refuseCop 2 .cop2OutOfScope s

/-- LWC3 (R298). -/
def execLwc3 (s : State) : StepOutcome := refuseCop 3 .noCoprocessor s

/-- SWC0: always refused (R298; log 10). -/
def execSwc0 (_s : State) : StepOutcome := .refused .cop0LoadStore

/-- SWC1 (R298). -/
def execSwc1 (s : State) : StepOutcome := refuseCop 1 .noCoprocessor s

/-- SWC2 (R298). -/
def execSwc2 (s : State) : StepOutcome := refuseCop 2 .cop2OutOfScope s

/-- SWC3 (R298). -/
def execSwc3 (s : State) : StepOutcome := refuseCop 3 .noCoprocessor s

/-- What a word that is no row of the table does: RI for a reserved word (R111); for another COP0 word the usable check, then
RI (R110, R299; log 26); a refusal for a REGIMM alias (R109, R112). A fetch gives four bytes, so `truncated` cannot arise;
it is given the reserved word's meaning. -/
def execUndecoded (e : DecodeError) (s : State) : StepOutcome :=
  match e with
  | .reserved => raise .ri s
  | .cop0Reserved => whenUsable 0 s (raise .ri s)
  | .regimmAlias => .refused .regimmAlias
  | .truncated => raise .ri s

end Sys2Proof.Machine
end

