-- ==== Sys2Proof/Machine/Cycle.lean ====
section
/-! DEFINITION. The step cycle around an instruction (40_step_cycle.md R130 to R134). -/

namespace Sys2Proof.Machine

/-- Decode and dispatch a fetched word (R134). -/
def runWord (w : Word) (s : State) : StepOutcome :=
  match decode w with
  | .ok i => exec i s
  | .error e => execUndecoded e s

/-- A step after the inputs are sampled: an interrupt that is due, else fetch, decode and execute (R130, R132, R340). -/
def runSampled (s : State) : StepOutcome :=
  if interruptDue s then raise .int s
  else (fetch s).settle s fun r => runWord r.1 r.2

/-- One step of the core (R130). -/
def cycle (s : State) : StepOutcome := runSampled (sampleInputs s)

end Sys2Proof.Machine
end

