-- ==== Sys2Proof/Machine/Step.lean ====
section
/-! DEFINITION. The step function, and how a tool places the instruction that the next step runs. -/

namespace Sys2Proof.Machine

/-- One step of the core (40_step_cycle.md R130). -/
def step (s : State) : Host.Outcome State Fault Refusal := cycle s

/-- `s` with the instruction word of `nbits` bits stored where `step` fetches next (log 6). -/
def State.withFetchWord (s : State) (nbits w : Nat) : State := placeWord s (tableWord nbits w)

end Sys2Proof.Machine
end

