-- ==== Sys2Proof/Safety.lean ====
section
/-! DEFINITION. The terms claims are stated in: what a completed instruction and a taken exception leave, field by field and
written from the rules and not from the model's own operations; where an address leads; and the invariant of a run. -/

namespace Sys2Proof.Safety

open Sys2Proof.Machine

/-! ## Completed steps -/

/-- What register `r` reads after a step that stages the normal write `write` and a new load to `load` (40_step_cycle.md R139,
R140): the write, else the carried-in load unless a new load to the same register discards it, else the old value. -/
def regAfter (s : State) (write : Option (RegNum × Word)) (load : Option RegNum) (r : RegNum) : Word :=
  if r = 0#5 then 0
  else match write with
    | some (d, v) => if r = d then v else unwritten
    | none => unwritten
where
  /-- The value without the step's own write. -/
  unwritten : Word :=
    match s.pendingLoad with
    | some l => if r = l.reg ∧ load ≠ some r then l.value else s.readReg r
    | none => s.readReg r

/-- The address of the fetch after a completed step (R141). -/
def fetchAfter (s : State) : Word :=
  match s.pendingBranch with
  | some ⟨true, target, _⟩ => target
  | some ⟨false, _, _⟩ => s.pc + 4
  | none => s.pc + 4

/-- A completed step with its normal write, new pending load and new pending branch (R139 to R142). -/
structure Completed (s t : State) (write : Option (RegNum × Word)) (load : Option PendingLoad)
    (branch : Option PendingBranch) : Prop where
  regs : ∀ r, t.readReg r = regAfter s write (load.map PendingLoad.reg) r
  load : t.pendingLoad = load
  branch : t.pendingBranch = branch
  pc : t.pc = fetchAfter s
  nextPc : t.nextPc = fetchAfter s + 4

/-- HI and LO are unchanged. -/
def KeepsHiLo (s t : State) : Prop := t.hi = s.hi ∧ t.lo = s.lo

/-- SR and Cause are unchanged. -/
def KeepsStatus (s t : State) : Prop := t.sr = s.sr ∧ t.cause = s.cause

/-- The exception registers EPC and BadVaddr are unchanged. -/
def KeepsExceptionRegs (s t : State) : Prop := t.epc = s.epc ∧ t.badVaddr = s.badVaddr

/-- Every byte of memory reads as before. -/
def KeepsBytes (s t : State) : Prop := ∀ a, t.readByte a = s.readByte a

/-- Memory, the stale marks and the external devices' operations are unchanged. -/
def KeepsMemory (s t : State) : Prop :=
  KeepsBytes s t ∧ t.icacheStale = s.icacheStale ∧ t.busLog = s.busLog

/-- The model's own input fields are unchanged. -/
def KeepsInputs (s t : State) : Prop := t.intLines = s.intLines ∧ t.tick = s.tick

/-- The HI/LO read age after an instruction other than MFHI and MFLO (R146). -/
def Ages (s t : State) : Prop := t.hiloAge = s.hiloAge - 1

/-- Everything but the general registers, the program counters, the delay slots and memory is unchanged, and the read age
falls. -/
def KeepsButMemory (s t : State) : Prop :=
  KeepsHiLo s t ∧ KeepsStatus s t ∧ KeepsExceptionRegs s t ∧ KeepsInputs s t ∧ Ages s t

/-- As `KeepsButMemory`, with memory unchanged too. -/
def KeepsRest (s t : State) : Prop := KeepsButMemory s t ∧ KeepsMemory s t

/-! ## Taken exceptions -/

/-- Exception entry (60_exceptions.md R330 to R335) after the commit of R145: `bad` is what BadVaddr takes, `ce` the coprocessor
number of CpU; with `ce = none` Cause.CE is left open. -/
structure TakenException (s t : State) (code : BitVec 5) (bad : Option Word) (ce : Option (BitVec 2)) : Prop where
  epc : t.epc = match s.pendingBranch with
    | some b => b.origin
    | none => s.pc
  bd : t.cause.getLsbD 31 = s.pendingBranch.isSome
  code : t.cause.extractLsb' 2 5 = code
  ce : ∀ z, ce = some z → t.cause.extractLsb' 28 2 = z
  ip : t.cause.extractLsb' 8 8 = s.cause.extractLsb' 8 8
  causeRest : t.cause &&& 0x4FFF0083 = 0
  badVaddr : t.badVaddr = bad.getD s.badVaddr
  pushed : t.sr.extractLsb' 2 4 = s.sr.extractLsb' 0 4
  kernel : t.sr.extractLsb' 0 2 = 0
  srRest : t.sr.extractLsb' 6 26 = s.sr.extractLsb' 6 26
  pc : t.pc = if s.sr.getLsbD 22 then 0xBFC00180 else 0x80000080
  nextPc : t.nextPc = t.pc + 4
  noLoad : t.pendingLoad = none
  noBranch : t.pendingBranch = none
  regs : ∀ r, t.readReg r = regAfter s none none r
  hiLo : KeepsHiLo s t
  memory : KeepsMemory s t
  inputs : KeepsInputs s t
  age : Ages s t

/-! ## Addresses -/

/-- The logical address leads to offset `off` of the device of region `r` (20_memory.md R62, R67, R68). -/
abbrev Reaches (a : Word) (r : Region) (off : Nat) : Prop :=
  r ∈ Config.regionTable ∧ r.base ≤ foldAddress a ∧ foldAddress a < r.base + r.window
    ∧ off = (foldAddress a - r.base) % r.period

/-- No region maps the logical address (R67, R69). -/
abbrev Unmapped (a : Word) : Prop :=
  ∀ r ∈ Config.regionTable, foldAddress a < r.base ∨ r.base + r.window ≤ foldAddress a

/-- The address is a multiple of the access width (R70). -/
abbrev Aligned (w : Width) (a : Word) : Prop := a.toNat % w.bytes = 0

/-- User mode may not reach the address (R64). -/
abbrev Forbidden (s : State) (a : Word) : Prop := s.sr.getLsbD 1 = true ∧ a.getLsbD 31 = true

/-- User mode with reverse endianness (R83). -/
abbrev Reversed (s : State) : Prop := s.sr.getLsbD 1 = true ∧ s.sr.getLsbD 25 = true

/-- The cache is isolated (R84). -/
abbrev Isolated (s : State) : Prop := s.sr.getLsbD 16 = true

/-- SCRATCH through KSEG1, `addr[31:29]` = 5 (R96). -/
abbrev ScratchAlias (a : Word) (r : Region) : Prop := r.device = .scratch ∧ a.extractLsb' 29 3 = 5#3

/-- A data access that passes every check up to the device: privilege, byte order, isolation and the scratchpad alias (R71). -/
abbrev PassesChecks (s : State) (a : Word) (r : Region) (off : Nat) : Prop :=
  ¬Forbidden s a ∧ ¬Reversed s ∧ ¬Isolated s ∧ Reaches a r off ∧ ¬ScratchAlias a r

/-- The little-endian value of `n` bytes from a cell up, as a number (R74, R75). -/
def bytesAt (s : State) (cell : Nat) : Nat → Nat
  | 0 => 0
  | n + 1 => (s.readByte cell).toNat + 256 * bytesAt s (cell + 1) n

/-- Byte `k` of a word: `v[8k+7:8k]` (R74). -/
def byteOf (v : Word) (k : Nat) : Byte := v.extractLsb' (8 * k) 8

/-- The device of the region holds bytes: RAM, SCRATCH and BIOS (R75, R76). -/
abbrev IsMemory (r : Region) : Prop := r.device = .ram ∨ r.device = .scratch ∨ r.device = .bios

/-- The low `w` bytes of a value, as a device of that width exchanges them (R72). -/
def cut (w : Width) (v : Word) : Word := BitVec.ofNat 32 (v.toNat % 2 ^ (8 * w.bytes))

/-- The bytes from `cell` up are those of `v`, lowest first, and every other byte reads as before (R74, R75). -/
structure StoresBytes (s t : State) (cell n : Nat) (v : Word) : Prop where
  stored : ∀ k, k < n → t.readByte (cell + k) = byteOf v k
  rest : ∀ c, (c < cell ∨ cell + n ≤ c) → t.readByte c = s.readByte c

/-- The stale marks of `t` are those of `s` and the word stored to (R95). -/
def Marked (s t : State) (d : Device) (off : Nat) : Prop :=
  ∀ m, m ∈ t.icacheStale ↔ m = (d, off - off % 4) ∨ m ∈ s.icacheStale

/-! ## Instructions by kind -/

/-- The instructions that write HI or LO (10_state.md R25). -/
def writesHiLo : Instr → Bool
  | .mult _ _ | .multu _ _ | .div _ _ | .divu _ _ | .mthi _ | .mtlo _ => true
  | _ => false

/-- The instructions that read HI or LO (10_state.md R25). -/
def readsHiLo : Instr → Bool
  | .mfhi _ | .mflo _ => true
  | _ => false

/-- The loads (44_load_store.md). -/
def isLoad : Instr → Bool
  | .lb _ _ _ | .lbu _ _ _ | .lh _ _ _ | .lhu _ _ _ | .lw _ _ _ | .lwl _ _ _ | .lwr _ _ _ => true
  | _ => false

/-- The stores (44_load_store.md). -/
def isStore : Instr → Bool
  | .sb _ _ _ | .sh _ _ _ | .sw _ _ _ | .swl _ _ _ | .swr _ _ _ => true
  | _ => false

/-- The branches and jumps (43_branch_jump.md). -/
def isBranch : Instr → Bool
  | .j _ | .jal _ | .jr _ | .jalr _ _ | .beq _ _ _ | .bne _ _ _ | .blez _ _ | .bgtz _ _ | .bltz _ _ | .bgez _ _ => true
  | .bltzal _ _ | .bgezal _ _ => true
  | _ => false

/-- The register that a normal write of the instruction goes to. -/
def writeDest : Instr → Option RegNum
  | .sll rd _ _ | .srl rd _ _ | .sra rd _ _ | .sllv rd _ _ | .srlv rd _ _ | .srav rd _ _ => some rd
  | .add rd _ _ | .addu rd _ _ | .sub rd _ _ | .subu rd _ _ | .and rd _ _ | .or rd _ _ => some rd
  | .xor rd _ _ | .nor rd _ _ | .slt rd _ _ | .sltu rd _ _ | .mfhi rd | .mflo rd | .jalr rd _ => some rd
  | .addi rt _ _ | .addiu rt _ _ | .slti rt _ _ | .sltiu rt _ _ | .andi rt _ _ | .ori rt _ _ | .xori rt _ _ => some rt
  | .lui rt _ => some rt
  | .jal _ | .bltzal _ _ | .bgezal _ _ => some 31
  | _ => none

/-- The register that a pending load of the instruction goes to. -/
def loadDest : Instr → Option RegNum
  | .lb rt _ _ | .lbu rt _ _ | .lh rt _ _ | .lhu rt _ _ | .lw rt _ _ | .lwl rt _ _ | .lwr rt _ _ | .mfc0 rt _ => some rt
  | _ => none

/-! ## The invariant of a run -/

/-- The cell belongs to a memory device (20_memory.md R66, R75, R76). -/
def memoryCell (c : Nat) : Bool :=
  Config.regionTable.any fun r => r.device.isMemory && r.base ≤ c && c < r.base + r.period

/-- The firmware's cells. -/
def firmwareCell (c : Nat) : Bool := 0x1FC00000 ≤ c && c < 0x1FC80000

/-- The exception codes that are ever written (R320). -/
def writtenCode (c : BitVec 5) : Bool := c = 0#5 || (4#5 ≤ c && c ≤ 12#5)

/-- What every step keeps. -/
structure CoreInv (s : State) : Prop where
  /-- The memory keeps its canonical form. -/
  memory : s.mem.wf
  /-- It lists bytes of memory devices only. -/
  mapped : ∀ c ∈ s.mem, memoryCell c.1 = true
  /-- The stale marks are a set in rising order. -/
  marks : s.icacheStale.Pairwise fun k m => markBefore k m = true
  /-- Every stale mark is a word offset (R95). -/
  markWords : ∀ m ∈ s.icacheStale, m.2 % 4 = 0
  /-- Register 0 holds nothing (R21). -/
  zero : s.regs[0] = 0
  /-- Between steps `next_pc` is the sequential successor (R27). -/
  nextPc : s.nextPc = s.pc + 4
  /-- The read age is 0..2 (R33). -/
  age : s.hiloAge ≤ 2
  /-- The bits of Cause that are never written read 0 (R43). -/
  causeRest : s.cause &&& 0x4FFF0083 = 0
  /-- ExcCode holds a code of R320. -/
  causeCode : writtenCode (s.cause.extractLsb' 2 5) = true
  /-- A pending branch was issued by an instruction at a word-aligned address (R28, R32). -/
  origin : ∀ b, s.pendingBranch = some b → b.origin.extractLsb' 0 2 = 0

/-- A state that a run may be launched from (70_reset_and_hazards.md R375, R377): the region table is well formed, `pc` is
word-aligned, and every field is one that a run can hold. -/
structure LaunchState (s : State) : Prop where
  table : regionTableWf Config.regionTable
  aligned : s.pc.toNat % 4 = 0
  core : CoreInv s

/-- The step ends in a completed state (00_scope.md R15 (a)). -/
def Completes (s : State) : Prop := ∃ t, step s = .next t

/-- Every one of the next `k` steps completes. -/
def SafeRun : Nat → State → Prop
  | 0, _ => True
  | k + 1, s => ∃ t, step s = .next t ∧ SafeRun k t

end Sys2Proof.Safety
end

