-- ==== Sys2Proof/Certificates/Slice0/Obligations.lean ====
section
/-! DEFINITION. The statements for the provers, in the terms of Sys2Proof/Safety.lean and of the vocabulary below, which is
written from the rules of spec/ and not from the model's own operations. -/

namespace Sys2Proof.Claims

open Sys2Proof.Machine Sys2Proof.Safety

/-! ## Encodings (30_encoding.md) -/

/-- Every SPECIAL word with function code `f` decodes to `i` of its rs, rt, rd and shamt fields, whatever its other bits (R102,
R108, R113). -/
def SpecialRow (f : BitVec 6) (i : RegNum → RegNum → RegNum → BitVec 5 → Instr) : Prop :=
  ∀ w : Word, w.extractLsb' 26 6 = 0#6 → w.extractLsb' 0 6 = f →
    decode w = .ok (i (w.extractLsb' 21 5) (w.extractLsb' 16 5) (w.extractLsb' 11 5) (w.extractLsb' 6 5))

/-- Every word with primary opcode `op` decodes to `i` of its rs, rt and imm fields (R103, R107, R113). -/
def ImmRow (op : BitVec 6) (i : RegNum → RegNum → BitVec 16 → Instr) : Prop :=
  ∀ w : Word, w.extractLsb' 26 6 = op →
    decode w = .ok (i (w.extractLsb' 21 5) (w.extractLsb' 16 5) (w.extractLsb' 0 16))

/-- Every REGIMM word with this `rt` decodes to `i` of its rs and imm fields (R109). -/
def RegimmRow (rt : BitVec 5) (i : RegNum → BitVec 16 → Instr) : Prop :=
  ∀ w : Word, w.extractLsb' 26 6 = 1#6 → w.extractLsb' 16 5 = rt →
    decode w = .ok (i (w.extractLsb' 21 5) (w.extractLsb' 0 16))

/-- Every word with primary opcode `op` decodes to `i` of its bits 25:0 (R104, R107). -/
def TargetRow (op : BitVec 6) (i : BitVec 26 → Instr) : Prop :=
  ∀ w : Word, w.extractLsb' 26 6 = op → decode w = .ok (i (w.extractLsb' 0 26))

/-- Every SPECIAL word with function code `f` decodes to `i` of its bits 25:6 (R101, R108). -/
def CodeRow (f : BitVec 6) (i : BitVec 20 → Instr) : Prop :=
  ∀ w : Word, w.extractLsb' 26 6 = 0#6 → w.extractLsb' 0 6 = f → decode w = .ok (i (w.extractLsb' 6 20))

/-- Every COP0 word with this `rs` decodes to `i` of its rt and rd fields, whatever its bits 10:0 (R105, R110, R113). -/
def MoveRow (rs : BitVec 5) (i : RegNum → RegNum → Instr) : Prop :=
  ∀ w : Word, w.extractLsb' 26 6 = 0x10#6 → w.extractLsb' 21 5 = rs →
    decode w = .ok (i (w.extractLsb' 16 5) (w.extractLsb' 11 5))

/-! ## Outcomes of an instruction -/

/-- `i` completes with the normal write of `v` to `r` and changes nothing else. -/
def Writes (i : Instr) (s : State) (r : RegNum) (v : Word) : Prop :=
  ∃ t, exec i s = .next t ∧ Completed s t (some (r, v)) none none ∧ KeepsRest s t

/-- `i` takes the exception `code`; `bad` is what BadVaddr takes and `ce` the coprocessor number of CpU. -/
def Traps (i : Instr) (s : State) (code : BitVec 5) (bad : Option Word) (ce : Option (BitVec 2)) : Prop :=
  ∃ t, exec i s = .next t ∧ TakenException s t code bad ce

/-- `i` completes with a new pending branch from its own address, and changes nothing but what `link` says. -/
def Branches (i : Instr) (s : State) (link : Option (RegNum × Word)) (taken : Bool) (target : Word) : Prop :=
  ∃ t, exec i s = .next t ∧ Completed s t link none (some ⟨taken, target, s.pc⟩) ∧ KeepsRest s t

/-- Everything but the general registers, the program counters, the delay slots, HI and LO is unchanged, and the read age
falls. -/
def KeepsButHiLo (s t : State) : Prop :=
  KeepsStatus s t ∧ KeepsExceptionRegs s t ∧ KeepsInputs s t ∧ Ages s t ∧ KeepsMemory s t

/-- The HI/LO hazard check (42_muldiv.md R201), and past it `i` completes, leaves HI and LO as `p` says and changes nothing
else. -/
def SetsHiLo (i : Instr) (s : State) (p : (hi lo : Word) → Prop) : Prop :=
  (0 < s.hiloAge → exec i s = .fault .hiLoHazard) ∧
  (s.hiloAge = 0 → ∃ t, exec i s = .next t ∧ p t.hi t.lo ∧ Completed s t none none none ∧ KeepsButHiLo s t)

/-- `i` is MFHI or MFLO: the normal write of `v` to `r`, the read age becomes 2, and nothing else changes. -/
def ReadsHiLo (i : Instr) (s : State) (r : RegNum) (v : Word) : Prop :=
  ∃ t, exec i s = .next t ∧ Completed s t (some (r, v)) none none ∧ t.hiloAge = 2 ∧ KeepsHiLo s t ∧ KeepsStatus s t
    ∧ KeepsExceptionRegs s t ∧ KeepsInputs s t ∧ KeepsMemory s t

/-! ## Loads and stores -/

/-- The effective address `x[rs] + sext_16(imm)` (44_load_store.md R250). -/
def address (s : State) (rs : RegNum) (imm : BitVec 16) : Word := s.readReg rs + imm.signExtend 32

/-- The value whose low `n` bits are the value `v`, sign-extended (R12). -/
def signed (n : Nat) (v : Word) : Word :=
  BitVec.ofInt 32 (if v.toNat < 2 ^ (n - 1) then (v.toNat : Int) else (v.toNat : Int) - 2 ^ n)

/-- The load completes: it stages the pending load, leaves the bus log `log`, and changes nothing else. -/
def Delivers (i : Instr) (s : State) (l : PendingLoad) (log : List BusOp) : Prop :=
  ∃ t, exec i s = .next t ∧ Completed s t none (some l) none ∧ KeepsButMemory s t ∧ KeepsBytes s t
    ∧ t.icacheStale = s.icacheStale ∧ t.busLog = log

/-- A load of `w` bytes at offset `off` of the device of `r`: the bytes of a memory device (R75, R76), or what an external
device answers, with a model fault for a device fault (R72, R73). How an external device is represented is the
model's choice (log 4). -/
def LoadsFrom (i : Instr) (s : State) (r : Region) (off : Nat) (w : Width) (deliver : Word → PendingLoad) : Prop :=
  if IsMemory r then Delivers i s (deliver (BitVec.ofNat 32 (bytesAt s (r.base + off) w.bytes))) s.busLog
  else
    match Config.deviceAnswer s.tick s.busLog (.read r.device off w) with
    | none => exec i s = .fault .deviceContractViolation
    | some v => Delivers i s (deliver (cut w v)) (.read r.device off w :: s.busLog)

/-- A data load of `w` bytes at `a`, whose address errors report `bad`: each check in its order (20_memory.md R71, R78), and
past them all the read of the device that `a` leads to. -/
structure CheckedLoad (i : Instr) (s : State) (bad a : Word) (w : Width) (deliver : Word → PendingLoad) : Prop where
  misaligned : ¬Aligned w a → Traps i s 4 (some bad) none
  forbidden : Aligned w a → Forbidden s a → Traps i s 4 (some bad) none
  reversed : Aligned w a → ¬Forbidden s a → Reversed s → exec i s = .refused .reverseEndian
  isolated : Aligned w a → ¬Forbidden s a → ¬Reversed s → Isolated s → exec i s = .refused .isolatedCacheLoad
  unmapped : Aligned w a → ¬Forbidden s a → ¬Reversed s → ¬Isolated s → Unmapped a → Traps i s 7 none none
  scratch : Aligned w a → ¬Forbidden s a → ¬Reversed s → ¬Isolated s → ∀ r off, Reaches a r off → ScratchAlias a r →
    exec i s = .refused .scratchpadAlias
  loads : Aligned w a → ∀ r off, PassesChecks s a r off → LoadsFrom i s r off w deliver

/-- The store completes with no register write and no pending load; `n` bytes of `v` are stored from `cell` up, the word at
offset `off` of `d` is marked stale, and nothing else changes. -/
def StoresMemory (i : Instr) (s : State) (cell n : Nat) (v : Word) (d : Device) (off : Nat) : Prop :=
  ∃ t, exec i s = .next t ∧ Completed s t none none none ∧ KeepsButMemory s t ∧ StoresBytes s t cell n v
    ∧ Marked s t d off ∧ t.busLog = s.busLog

/-- The store completes by issuing `op` to an external device: no byte of memory changes, the word is marked stale. -/
def StoresBus (i : Instr) (s : State) (op : BusOp) (d : Device) (off : Nat) : Prop :=
  ∃ t, exec i s = .next t ∧ Completed s t none none none ∧ KeepsButMemory s t ∧ KeepsBytes s t
    ∧ Marked s t d off ∧ t.busLog = op :: s.busLog

/-- The store is discarded by cache isolation: no bus access, no byte changes, and the stale marks of the address's line go
(R84, R95). -/
def Discards (i : Instr) (s : State) (a : Word) : Prop :=
  ∃ t, exec i s = .next t ∧ Completed s t none none none ∧ KeepsButMemory s t ∧ KeepsBytes s t ∧ t.busLog = s.busLog
    ∧ ∀ m, m ∈ t.icacheStale ↔ m ∈ s.icacheStale ∧ m.2 / 16 % 256 ≠ a.toNat / 16 % 256

/-- A store of the low `w` bytes of `v` at offset `off` of the device of `r`: into RAM or SCRATCH (R75), a model fault for BIOS
(R76), or the external device's acknowledgement or device fault (R72, R73; the device's representation: log 4). -/
def StoresTo (i : Instr) (s : State) (r : Region) (off : Nat) (w : Width) (v : Word) : Prop :=
  if r.device = .ram ∨ r.device = .scratch then StoresMemory i s (r.base + off) w.bytes v r.device off
  else if r.device = .bios then exec i s = .fault .deviceContractViolation
  else
    match Config.deviceAnswer s.tick s.busLog (.write r.device off w (cut w v)) with
    | none => exec i s = .fault .deviceContractViolation
    | some _ => StoresBus i s (.write r.device off w (cut w v)) r.device off

/-- A data store of width `w` at `a`, whose address errors report `bad`: each check in its order (20_memory.md R71, R78,
44_load_store.md R254), and past them all what `perform` says of the device that `a` leads to. -/
structure CheckedStore (i : Instr) (s : State) (bad a : Word) (w : Width) (perform : Region → Nat → Prop) : Prop where
  misaligned : ¬Aligned w a → Traps i s 5 (some bad) none
  forbidden : Aligned w a → Forbidden s a → Traps i s 5 (some bad) none
  reversed : Aligned w a → ¬Forbidden s a → Reversed s → exec i s = .refused .reverseEndian
  isolated : Aligned w a → ¬Forbidden s a → ¬Reversed s → Isolated s → Discards i s bad
  unmapped : Aligned w a → ¬Forbidden s a → ¬Reversed s → ¬Isolated s → Unmapped a → Traps i s 7 none none
  scratch : Aligned w a → ¬Forbidden s a → ¬Reversed s → ¬Isolated s → ∀ r off, Reaches a r off → ScratchAlias a r →
    exec i s = .refused .scratchpadAlias
  performs : Aligned w a → ∀ r off, PassesChecks s a r off → perform r off

/-- The aligned word's address, `a` with its low two bits cleared. -/
def alignedWord (a : Word) : Word := BitVec.ofNat 32 (a.toNat / 4 * 4)

/-- The byte of memory that the logical address reaches is `b`. -/
def HoldsByte (s : State) (a : Word) (r : Region) (b : Byte) : Prop :=
  ∃ off, Reaches a r off ∧ s.readByte (r.base + off) = b

/-! ## Steps -/

/-- The interrupt condition (60_exceptions.md R345). -/
abbrev InterruptPending (s : State) : Prop :=
  s.sr.getLsbD 0 = true ∧ ∃ k : Fin 8, s.cause.getLsbD (8 + k) = true ∧ s.sr.getLsbD (8 + k) = true

/-- The step that starts in `s` takes an interrupt (40_step_cycle.md R131, R132). -/
abbrev InterruptTaken (s : State) : Prop := s.pendingBranch = none ∧ InterruptPending (sampleInputs s)

/-- The step from `t` to `u` takes an exception, in the state whose inputs are sampled; `log` is what its fetch has left of the
operations issued to the external devices. -/
def Excepts (t u : State) : Prop :=
  ∃ log code bad ce, TakenException { sampleInputs t with busLog := log } u code bad ce

/-- The exception vector that SR.BEV selects (R335). -/
def vectorOf (s : State) : Word := if s.sr.getLsbD 22 then 0xBFC00180 else 0x80000080

/-- A fetch at `pc` that passes every check up to the device: alignment, privilege, byte order, the scratchpad and the stale
marks (20_memory.md R79). -/
abbrev PassesFetch (s : State) (r : Region) (off : Nat) : Prop :=
  Aligned .word s.pc ∧ ¬Forbidden s s.pc ∧ ¬Reversed s ∧ Reaches s.pc r off ∧ r.device ≠ .scratch
    ∧ ¬(s.pc.extractLsb' 29 3 ≤ 4#3 ∧ (r.device, off) ∈ s.icacheStale)

/-- The instruction word that lies at a cell (30_encoding.md R100). -/
def wordAt (s : State) (cell : Nat) : Word := BitVec.ofNat 32 (bytesAt s cell 4)

/-! ## Stops -/

/-- The address that a load or store routes: its effective address, for the unaligned forms that of the aligned word. -/
def accessAddress (s : State) : Instr → Option Word
  | .lb _ m rs | .lbu _ m rs | .lh _ m rs | .lhu _ m rs | .lw _ m rs => some (address s rs m)
  | .sb _ m rs | .sh _ m rs | .sw _ m rs => some (address s rs m)
  | .lwl _ m rs | .lwr _ m rs | .swl _ m rs | .swr _ m rs => some (alignedWord (address s rs m))
  | _ => none

/-- The access of `i` reaches offset `off` of the device of `r`, at the address `a` that it routes. -/
def Accesses (i : Instr) (s : State) (a : Word) (r : Region) (off : Nat) : Prop :=
  accessAddress s i = some a ∧ Reaches a r off

/-- The operation that a load or store issues where its address leads to offset `off` of the external device `d` (20_memory.md
R72): its own width, and for a store the low bytes of its own register. SWL and SWR issue none, because they are refused there
(44_load_store.md R254). -/
def issues (s : State) (d : Device) (off : Nat) : Instr → Option BusOp
  | .lb .. | .lbu .. => some (.read d off .byte)
  | .lh .. | .lhu .. => some (.read d off .half)
  | .lw .. | .lwl .. | .lwr .. => some (.read d off .word)
  | .sb rt .. => some (.write d off .byte (cut .byte (s.readReg rt)))
  | .sh rt .. => some (.write d off .half (cut .half (s.readReg rt)))
  | .sw rt .. => some (.write d off .word (cut .word (s.readReg rt)))
  | _ => none

/-- The access of `i` ends in a device fault (20_memory.md R73, R76): a store to BIOS, or an external device that answers none
to the operation that `i` issues. How an external device is represented is the model's choice (log 4). -/
def DeviceFaults (i : Instr) (s : State) : Prop :=
  ∃ a r off, Accesses i s a r off ∧
    ((isStore i = true ∧ r.device = .bios) ∨
      (¬IsMemory r ∧ ∃ op, issues s r.device off i = some op ∧ Config.deviceAnswer s.tick s.busLog op = none))

/-- When an instruction is refused for a reason (60_exceptions.md R323). -/
def RefusedFor (i : Instr) (s : State) : Refusal → Prop
  | .notModelled _ => False
  | .regimmAlias => False
  | .noCoprocessor =>
    (s.sr.getLsbD 29 = true ∧ ((∃ c, i = .cop1 c) ∨ (∃ rt m rs, i = .lwc1 rt m rs) ∨ (∃ rt m rs, i = .swc1 rt m rs)))
      ∨ (s.sr.getLsbD 31 = true ∧ ((∃ c, i = .cop3 c) ∨ (∃ rt m rs, i = .lwc3 rt m rs) ∨ (∃ rt m rs, i = .swc3 rt m rs)))
  | .cop2OutOfScope =>
    s.sr.getLsbD 30 = true ∧ ((∃ c, i = .cop2 c) ∨ (∃ rt m rs, i = .lwc2 rt m rs) ∨ (∃ rt m rs, i = .swc2 rt m rs))
  | .cop0LoadStore => (∃ rt m rs, i = .lwc0 rt m rs) ∨ (∃ rt m rs, i = .swc0 rt m rs)
  | .cop0RegisterUnmodelled =>
    (∃ rt rd, i = .mfc0 rt rd ∧ rd ∉ [8#5, 12#5, 13#5, 14#5, 15#5]) ∨ (∃ rt, i = .mtc0 rt 7#5 ∧ s.readReg rt ≠ 0#32)
  | .reverseEndian => (isLoad i || isStore i) = true ∧ Reversed s
  | .isolatedCacheLoad => isLoad i = true ∧ Isolated s
  | .partialStoreToDevice =>
    ((∃ rt m rs, i = .swl rt m rs) ∨ (∃ rt m rs, i = .swr rt m rs)) ∧ ∃ a r off, Accesses i s a r off ∧ ¬IsMemory r
  | .scratchpadAlias => (isLoad i || isStore i) = true ∧ ∃ a r off, Accesses i s a r off ∧ ScratchAlias a r
  | .jalrLinkOverwritesTarget => ∃ r, r ≠ 0#5 ∧ i = .jalr r r
  | .linkRegisterAsCondition => (∃ m, i = .bltzal 31#5 m) ∨ (∃ m, i = .bgezal 31#5 m)

end Sys2Proof.Claims

section

open Sys2Proof Sys2Proof.Machine Sys2Proof.Safety Sys2Proof.Claims

/-! ## Integer ALU instructions (41_alu.md) -/

/-- R163, R165 to R171: ADDU and SUBU wrap, the logic instructions work bit by bit, SLT and SLTU compare; each completes from
every state, for every operand, and changes nothing but its destination. -/
def Obligations.RegisterAlu : Prop :=
  SpecialRow 0x21 (fun rs rt rd _ => .addu rd rs rt) ∧ SpecialRow 0x23 (fun rs rt rd _ => .subu rd rs rt) ∧
  SpecialRow 0x24 (fun rs rt rd _ => .and rd rs rt) ∧ SpecialRow 0x25 (fun rs rt rd _ => .or rd rs rt) ∧
  SpecialRow 0x26 (fun rs rt rd _ => .xor rd rs rt) ∧ SpecialRow 0x27 (fun rs rt rd _ => .nor rd rs rt) ∧
  SpecialRow 0x2A (fun rs rt rd _ => .slt rd rs rt) ∧ SpecialRow 0x2B (fun rs rt rd _ => .sltu rd rs rt) ∧
  ∀ (s : State) (rd rs rt : RegNum), let a := s.readReg rs; let b := s.readReg rt
    Writes (.addu rd rs rt) s rd (BitVec.ofNat 32 (a.toNat + b.toNat)) ∧
    Writes (.subu rd rs rt) s rd (BitVec.ofInt 32 ((a.toNat : Int) - b.toNat)) ∧
    (∃ v, Writes (.and rd rs rt) s rd v ∧ ∀ k < 32, v.getLsbD k = (a.getLsbD k && b.getLsbD k)) ∧
    (∃ v, Writes (.or rd rs rt) s rd v ∧ ∀ k < 32, v.getLsbD k = (a.getLsbD k || b.getLsbD k)) ∧
    (∃ v, Writes (.xor rd rs rt) s rd v ∧ ∀ k < 32, v.getLsbD k = (a.getLsbD k != b.getLsbD k)) ∧
    (∃ v, Writes (.nor rd rs rt) s rd v ∧ ∀ k < 32, v.getLsbD k = !(a.getLsbD k || b.getLsbD k)) ∧
    Writes (.slt rd rs rt) s rd (if a.toInt < b.toInt then 1 else 0) ∧
    Writes (.sltu rd rs rt) s rd (if a.toNat < b.toNat then 1 else 0)

/-- R173 to R179: the immediate forms, with the immediate sign-extended (ADDIU, SLTI, SLTIU), zero-extended (ANDI, ORI, XORI)
or shifted up (LUI). -/
def Obligations.ImmediateAlu : Prop :=
  ImmRow 0x09 (fun rs rt imm => .addiu rt rs imm) ∧ ImmRow 0x0A (fun rs rt imm => .slti rt rs imm) ∧
  ImmRow 0x0B (fun rs rt imm => .sltiu rt rs imm) ∧ ImmRow 0x0C (fun rs rt imm => .andi rt rs imm) ∧
  ImmRow 0x0D (fun rs rt imm => .ori rt rs imm) ∧ ImmRow 0x0E (fun rs rt imm => .xori rt rs imm) ∧
  ImmRow 0x0F (fun _ rt imm => .lui rt imm) ∧
  ∀ (s : State) (rt rs : RegNum) (imm : BitVec 16), let a := s.readReg rs
    Writes (.addiu rt rs imm) s rt (BitVec.ofInt 32 (a.toInt + imm.toInt)) ∧
    Writes (.slti rt rs imm) s rt (if a.toInt < imm.toInt then 1 else 0) ∧
    Writes (.sltiu rt rs imm) s rt (if a.toNat < (BitVec.ofInt 32 imm.toInt).toNat then 1 else 0) ∧
    (∃ v, Writes (.andi rt rs imm) s rt v ∧ ∀ k < 32, v.getLsbD k = (a.getLsbD k && imm.getLsbD k)) ∧
    (∃ v, Writes (.ori rt rs imm) s rt v ∧ ∀ k < 32, v.getLsbD k = (a.getLsbD k || imm.getLsbD k)) ∧
    (∃ v, Writes (.xori rt rs imm) s rt v ∧ ∀ k < 32, v.getLsbD k = (a.getLsbD k != imm.getLsbD k)) ∧
    Writes (.lui rt imm) s rt (BitVec.ofNat 32 (imm.toNat * 65536))

/-- R180 to R185: the shifts by `shamt` and by the low five bits of a register. -/
def Obligations.Shifts : Prop :=
  SpecialRow 0x00 (fun _ rt rd shamt => .sll rd rt shamt) ∧ SpecialRow 0x02 (fun _ rt rd shamt => .srl rd rt shamt) ∧
  SpecialRow 0x03 (fun _ rt rd shamt => .sra rd rt shamt) ∧ SpecialRow 0x04 (fun rs rt rd _ => .sllv rd rt rs) ∧
  SpecialRow 0x06 (fun rs rt rd _ => .srlv rd rt rs) ∧ SpecialRow 0x07 (fun rs rt rd _ => .srav rd rt rs) ∧
  ∀ (s : State) (rd rt rs : RegNum) (shamt : BitVec 5), let v := s.readReg rt; let k := (s.readReg rs).toNat % 32
    Writes (.sll rd rt shamt) s rd (BitVec.ofNat 32 (v.toNat * 2 ^ shamt.toNat)) ∧
    Writes (.srl rd rt shamt) s rd (BitVec.ofNat 32 (v.toNat / 2 ^ shamt.toNat)) ∧
    Writes (.sra rd rt shamt) s rd (BitVec.ofInt 32 (v.toInt / 2 ^ shamt.toNat)) ∧
    Writes (.sllv rd rt rs) s rd (BitVec.ofNat 32 (v.toNat * 2 ^ k)) ∧
    Writes (.srlv rd rt rs) s rd (BitVec.ofNat 32 (v.toNat / 2 ^ k)) ∧
    Writes (.srav rd rt rs) s rd (BitVec.ofInt 32 (v.toInt / 2 ^ k))

/-- R161, R162, R164, R172: ADD, SUB and ADDI write the exact signed result when it fits 32 bits, and raise Ov without writing
when it does not; the sign-bit test of R161 is the same condition. -/
def Obligations.TrappingArithmetic : Prop :=
  SpecialRow 0x20 (fun rs rt rd _ => .add rd rs rt) ∧ SpecialRow 0x22 (fun rs rt rd _ => .sub rd rs rt) ∧
  ImmRow 0x08 (fun rs rt imm => .addi rt rs imm) ∧
  (∀ a b : Word,
    (¬(-2 ^ 31 ≤ a.toInt + b.toInt ∧ a.toInt + b.toInt ≤ 2 ^ 31 - 1) ↔ a.msb = b.msb ∧ (a + b).msb ≠ a.msb) ∧
    (¬(-2 ^ 31 ≤ a.toInt - b.toInt ∧ a.toInt - b.toInt ≤ 2 ^ 31 - 1) ↔ a.msb ≠ b.msb ∧ (a - b).msb ≠ a.msb)) ∧
  ∀ (s : State) (d rs rt : RegNum) (imm : BitVec 16), let a := (s.readReg rs).toInt; let b := (s.readReg rt).toInt
    ((-2 ^ 31 ≤ a + b ∧ a + b ≤ 2 ^ 31 - 1) → Writes (.add d rs rt) s d (BitVec.ofInt 32 (a + b))) ∧
    (¬(-2 ^ 31 ≤ a + b ∧ a + b ≤ 2 ^ 31 - 1) → Traps (.add d rs rt) s 12 none none) ∧
    ((-2 ^ 31 ≤ a - b ∧ a - b ≤ 2 ^ 31 - 1) → Writes (.sub d rs rt) s d (BitVec.ofInt 32 (a - b))) ∧
    (¬(-2 ^ 31 ≤ a - b ∧ a - b ≤ 2 ^ 31 - 1) → Traps (.sub d rs rt) s 12 none none) ∧
    ((-2 ^ 31 ≤ a + imm.toInt ∧ a + imm.toInt ≤ 2 ^ 31 - 1) →
      Writes (.addi d rs imm) s d (BitVec.ofInt 32 (a + imm.toInt))) ∧
    (¬(-2 ^ 31 ≤ a + imm.toInt ∧ a + imm.toInt ≤ 2 ^ 31 - 1) → Traps (.addi d rs imm) s 12 none none)

/-! ## Multiply, divide, HI and LO (42_muldiv.md) -/

/-- R202, R203: MULT and MULTU leave the exact product over HI and LO. -/
def Obligations.Multiply : Prop :=
  SpecialRow 0x18 (fun rs rt _ _ => .mult rs rt) ∧ SpecialRow 0x19 (fun rs rt _ _ => .multu rs rt) ∧
  ∀ (s : State) (rs rt : RegNum), let a := s.readReg rs; let b := s.readReg rt
    SetsHiLo (.mult rs rt) s (fun hi lo => (hi ++ lo).toInt = a.toInt * b.toInt) ∧
    SetsHiLo (.multu rs rt) s (fun hi lo => (hi ++ lo).toNat = a.toNat * b.toNat)

/-- R204, R205: DIV and DIVU, with their results for a zero divisor and for the one quotient that does not fit. -/
def Obligations.Divide : Prop :=
  SpecialRow 0x1A (fun rs rt _ _ => .div rs rt) ∧ SpecialRow 0x1B (fun rs rt _ _ => .divu rs rt) ∧
  ∀ (s : State) (rs rt : RegNum), let a := s.readReg rs; let b := s.readReg rt
    SetsHiLo (.div rs rt) s (fun hi lo =>
      if b = 0#32 then hi = a ∧ lo = (if 0 ≤ a.toInt then 0xFFFFFFFF else 1)
      else if a = 0x80000000#32 ∧ b = 0xFFFFFFFF#32 then hi = 0 ∧ lo = 0x80000000
      else hi.toInt = a.toInt.tmod b.toInt ∧ lo.toInt = a.toInt.tdiv b.toInt) ∧
    SetsHiLo (.divu rs rt) s (fun hi lo =>
      if b = 0#32 then hi = a ∧ lo = 0xFFFFFFFF
      else hi.toNat = a.toNat % b.toNat ∧ lo.toNat = a.toNat / b.toNat)

/-- R210 (derived): the division law and the exactness of products, of what the instructions leave in HI and LO. -/
def Obligations.DivisionLaw : Prop :=
  ∀ (s t : State) (rs rt : RegNum), let a := s.readReg rs; let b := s.readReg rt
    (b ≠ 0#32 → ¬(a = 0x80000000#32 ∧ b = 0xFFFFFFFF#32) → exec (.div rs rt) s = .next t →
      t.lo.toInt * b.toInt + t.hi.toInt = a.toInt ∧ t.hi.toInt.natAbs < b.toInt.natAbs ∧
      (t.hi = 0 ∨ (t.hi.toInt < 0 ↔ a.toInt < 0))) ∧
    (b ≠ 0#32 → exec (.divu rs rt) s = .next t →
      t.lo.toNat * b.toNat + t.hi.toNat = a.toNat ∧ t.hi.toNat < b.toNat) ∧
    (exec (.mult rs rt) s = .next t → (t.hi ++ t.lo).toInt = a.toInt * b.toInt) ∧
    (exec (.multu rs rt) s = .next t → (t.hi ++ t.lo).toNat = a.toNat * b.toNat)

/-- R206 to R209: the moves to and from HI and LO. -/
def Obligations.HiLoMoves : Prop :=
  SpecialRow 0x10 (fun _ _ rd _ => .mfhi rd) ∧ SpecialRow 0x12 (fun _ _ rd _ => .mflo rd) ∧
  SpecialRow 0x11 (fun rs _ _ _ => .mthi rs) ∧ SpecialRow 0x13 (fun rs _ _ _ => .mtlo rs) ∧
  ∀ (s : State) (r : RegNum),
    ReadsHiLo (.mfhi r) s r s.hi ∧ ReadsHiLo (.mflo r) s r s.lo ∧
    SetsHiLo (.mthi r) s (fun hi lo => hi = s.readReg r ∧ lo = s.lo) ∧
    SetsHiLo (.mtlo r) s (fun hi lo => hi = s.hi ∧ lo = s.readReg r)

/-- R201: an instruction that writes HI or LO faults at each of the two instructions after MFHI or MFLO, whatever the first of
them is, and no longer at the third when neither of the two is MFHI or MFLO. -/
def Obligations.HiLoHazard : Prop :=
  ∀ (s t u v : State) (m j k w : Instr), readsHiLo m = true → writesHiLo w = true →
    exec m s = .next t →
      exec w (sampleInputs t) = .fault .hiLoHazard ∧
      (exec j (sampleInputs t) = .next u →
        exec w (sampleInputs u) = .fault .hiLoHazard ∧
        (readsHiLo j = false → readsHiLo k = false → exec k (sampleInputs u) = .next v →
          ∃ x, exec w (sampleInputs v) = .next x))

/-- R25: HI and LO are written only by MULT, MULTU, DIV, DIVU, MTHI and MTLO, and read only by MFHI and MFLO: other values of
HI and LO change no other field that an instruction leaves. -/
def Obligations.HiLoAccess : Prop :=
  (∀ (i : Instr) (s t : State), exec i s = .next t → writesHiLo i = false → t.hi = s.hi ∧ t.lo = s.lo) ∧
  (∀ (i : Instr) (s t : State) (h l : Word), readsHiLo i = false → exec i s = .next t →
    ∃ u, exec i { s with hi := h, lo := l } = .next u ∧ { u with hi := t.hi, lo := t.lo } = t)

/-! ## Branches and jumps (43_branch_jump.md) -/

/-- R223 to R226: the jumps, with the refusal of JALR when its link register is its target register. -/
def Obligations.Jumps : Prop :=
  TargetRow 0x02 .j ∧ TargetRow 0x03 .jal ∧
  SpecialRow 0x08 (fun rs _ _ _ => .jr rs) ∧ SpecialRow 0x09 (fun rs _ rd _ => .jalr rd rs) ∧
  ∀ (s : State) (target : BitVec 26) (rd rs : RegNum),
    let t := BitVec.ofNat 32 ((s.pc + 4).toNat / 2 ^ 28 * 2 ^ 28 + 4 * target.toNat)
    Branches (.j target) s none true t ∧
    Branches (.jal target) s (some (31, s.pc + 8)) true t ∧
    Branches (.jr rs) s none true (s.readReg rs) ∧
    ((rd ≠ rs ∨ rd = 0#5) → Branches (.jalr rd rs) s (some (rd, s.pc + 8)) true (s.readReg rs)) ∧
    (rd ≠ 0#5 → exec (.jalr rd rd) s = .refused .jalrLinkOverwritesTarget)

/-- R227 to R232: the conditional branches; each stages a pending branch, taken or not. -/
def Obligations.ConditionalBranches : Prop :=
  ImmRow 0x04 .beq ∧ ImmRow 0x05 .bne ∧ ImmRow 0x06 (fun rs _ imm => .blez rs imm) ∧
  ImmRow 0x07 (fun rs _ imm => .bgtz rs imm) ∧ RegimmRow 0x00 .bltz ∧ RegimmRow 0x01 .bgez ∧
  ∀ (s : State) (rs rt : RegNum) (imm : BitVec 16),
    let t := BitVec.ofInt 32 (s.pc.toNat + 4 + 4 * imm.toInt); let a := (s.readReg rs).toInt
    Branches (.beq rs rt imm) s none (decide (s.readReg rs = s.readReg rt)) t ∧
    Branches (.bne rs rt imm) s none (decide (s.readReg rs ≠ s.readReg rt)) t ∧
    Branches (.blez rs imm) s none (decide (a ≤ 0)) t ∧
    Branches (.bgtz rs imm) s none (decide (a > 0)) t ∧
    Branches (.bltz rs imm) s none (decide (a < 0)) t ∧
    Branches (.bgez rs imm) s none (decide (a ≥ 0)) t

/-- R233, R234: BLTZAL and BGEZAL link taken or not, and are refused when they test register 31. -/
def Obligations.LinkBranches : Prop :=
  RegimmRow 0x10 .bltzal ∧ RegimmRow 0x11 .bgezal ∧
  ∀ (s : State) (rs : RegNum) (imm : BitVec 16),
    let t := BitVec.ofInt 32 (s.pc.toNat + 4 + 4 * imm.toInt); let a := (s.readReg rs).toInt
    (rs ≠ 31#5 → Branches (.bltzal rs imm) s (some (31, s.pc + 8)) (decide (a < 0)) t ∧
      Branches (.bgezal rs imm) s (some (31, s.pc + 8)) (decide (a ≥ 0)) t) ∧
    exec (.bltzal 31 imm) s = .refused .linkRegisterAsCondition ∧
    exec (.bgezal 31 imm) s = .refused .linkRegisterAsCondition

/-- R148, R236, R144 (derived, over steps): after a step that leaves a taken branch pending from outside a delay slot, the next
step is at the next address and takes no interrupt, and it ends at the target unless it takes an exception, which then
records the branch and goes to the vector; a branch taken in the delay slot is followed the same way from there. -/
def Obligations.BranchDelay : Prop :=
  ∀ (s t u v : State) (b c : PendingBranch), s.pendingBranch = none →
    step s = .next t → t.pendingBranch = some b → b.taken = true →
      t.pc = s.pc + 4 ∧ ¬InterruptTaken t ∧
      (step t = .next u →
        (Excepts t u ∧ u.epc = b.origin ∧ u.cause.getLsbD 31 = true ∧ u.pendingBranch = none ∧ u.pc = vectorOf t) ∨
        (u.pc = b.target ∧
          (u.pendingBranch = some c → c.taken = true → step u = .next v →
            (Excepts u v ∧ v.epc = c.origin ∧ v.cause.getLsbD 31 = true ∧ v.pendingBranch = none ∧ v.pc = vectorOf u) ∨
              v.pc = c.target)))

/-! ## Loads and stores (44_load_store.md) -/

/-- R255 to R259 (derived: an external device's representation is the model's choice, log 4): LB, LBU, LH, LHU and LW from
every address: each check in order, then the pending load of the value read. -/
def Obligations.Loads : Prop :=
  ImmRow 0x20 (fun rs rt imm => .lb rt imm rs) ∧ ImmRow 0x24 (fun rs rt imm => .lbu rt imm rs) ∧
  ImmRow 0x21 (fun rs rt imm => .lh rt imm rs) ∧ ImmRow 0x25 (fun rs rt imm => .lhu rt imm rs) ∧
  ImmRow 0x23 (fun rs rt imm => .lw rt imm rs) ∧
  ∀ (s : State) (rt rs : RegNum) (imm : BitVec 16), let a := address s rs imm
    CheckedLoad (.lb rt imm rs) s a a .byte (fun v => ⟨rt, signed 8 v⟩) ∧
    CheckedLoad (.lbu rt imm rs) s a a .byte (fun v => ⟨rt, v⟩) ∧
    CheckedLoad (.lh rt imm rs) s a a .half (fun v => ⟨rt, signed 16 v⟩) ∧
    CheckedLoad (.lhu rt imm rs) s a a .half (fun v => ⟨rt, v⟩) ∧
    CheckedLoad (.lw rt imm rs) s a a .word (fun v => ⟨rt, v⟩)

/-- R253, R260, R261 (derived: an external device's representation is the model's choice, log 4): LWL and LWR take their bytes
from the aligned word that holds the address and keep the others of the merge base, which is the carried-in load to the same
register where there is one; an address error reports the address itself. -/
def Obligations.UnalignedLoads : Prop :=
  ImmRow 0x22 (fun rs rt imm => .lwl rt imm rs) ∧ ImmRow 0x26 (fun rs rt imm => .lwr rt imm rs) ∧
  ∀ (s : State) (rt rs : RegNum) (imm : BitVec 16), let a := address s rs imm; let n := a.toNat % 4
    ∀ cur : Word, (cur = match s.pendingLoad with
        | some l => if l.reg = rt then l.value else s.readReg rt
        | none => s.readReg rt) →
    ∃ left right : Word → Word,
      CheckedLoad (.lwl rt imm rs) s a (alignedWord a) .word (fun w => ⟨rt, left w⟩) ∧
      CheckedLoad (.lwr rt imm rs) s a (alignedWord a) .word (fun w => ⟨rt, right w⟩) ∧
      ∀ (w : Word) (j : Nat), j < 4 →
        byteOf (left w) j = (if 3 - n ≤ j then byteOf w (j - (3 - n)) else byteOf cur j) ∧
        byteOf (right w) j = (if j ≤ 3 - n then byteOf w (j + n) else byteOf cur j)

/-- R262 to R264 (derived: an external device's representation is the model's choice, log 4): SB, SH and SW to every address,
from every state: each check in order, then the store. -/
def Obligations.Stores : Prop :=
  ImmRow 0x28 (fun rs rt imm => .sb rt imm rs) ∧ ImmRow 0x29 (fun rs rt imm => .sh rt imm rs) ∧
  ImmRow 0x2B (fun rs rt imm => .sw rt imm rs) ∧
  ∀ (s : State) (rt rs : RegNum) (imm : BitVec 16),
    let a := address s rs imm; let v := s.readReg rt
    CheckedStore (.sb rt imm rs) s a a .byte (fun r off => StoresTo (.sb rt imm rs) s r off .byte v) ∧
    CheckedStore (.sh rt imm rs) s a a .half (fun r off => StoresTo (.sh rt imm rs) s r off .half v) ∧
    CheckedStore (.sw rt imm rs) s a a .word (fun r off => StoresTo (.sw rt imm rs) s r off .word v)

/-- R254, R265, R266: SWL stores the most significant bytes of `rt` from the aligned word's start up to the address, SWR the
least significant bytes from the address up to the word's end; both are refused for a peripheral device and fault for
BIOS. -/
def Obligations.UnalignedStores : Prop :=
  ImmRow 0x2A (fun rs rt imm => .swl rt imm rs) ∧ ImmRow 0x2E (fun rs rt imm => .swr rt imm rs) ∧
  ∀ (s : State) (rt rs : RegNum) (imm : BitVec 16),
    let a := address s rs imm; let v := s.readReg rt; let n := a.toNat % 4
    CheckedStore (.swl rt imm rs) s a (alignedWord a) .word (fun r off =>
      if r.device = .ram ∨ r.device = .scratch then
        StoresMemory (.swl rt imm rs) s (r.base + off) (n + 1) (v >>> (8 * (3 - n))) r.device off
      else if r.device = .bios then exec (.swl rt imm rs) s = .fault .deviceContractViolation
      else exec (.swl rt imm rs) s = .refused .partialStoreToDevice) ∧
    CheckedStore (.swr rt imm rs) s a (alignedWord a) .word (fun r off =>
      if r.device = .ram ∨ r.device = .scratch then
        StoresMemory (.swr rt imm rs) s (r.base + off + n) (4 - n) v r.device off
      else if r.device = .bios then exec (.swr rt imm rs) s = .fault .deviceContractViolation
      else exec (.swr rt imm rs) s = .refused .partialStoreToDevice)

/-- R147, R268 (derived): the instruction in a load's delay slot sees the old value of its target, and every register holds
the loaded value after that instruction, unless it writes the register or loads into it, in which case the loaded value is
never seen; a load to register 0 leaves 0 (R21). -/
def Obligations.LoadDelay : Prop :=
  ∀ (s t u : State) (i j : Instr) (l : PendingLoad),
    exec i s = .next t → loadDest i = some l.reg → t.pendingLoad = some l →
      t.readReg l.reg = s.readReg l.reg ∧
      (exec j (sampleInputs t) = .next u →
        (writeDest j ≠ some l.reg → loadDest j ≠ some l.reg →
          u.readReg l.reg = if l.reg = 0#5 then 0 else l.value) ∧
        (loadDest j = some l.reg → ∀ m, u.pendingLoad = some m → u.readReg l.reg = s.readReg l.reg))

/-- R92 (derived): a word stored to RAM or SCRATCH and loaded at the next step from the same address gives the stored value. -/
def Obligations.StoreLoadRoundTrip : Prop :=
  ∀ (s t : State) (rt rs rt' rs' : RegNum) (imm imm' : BitVec 16) (r : Region) (off : Nat),
    let a := address s rs imm
    Aligned .word a → PassesChecks s a r off → (r.device = .ram ∨ r.device = .scratch) →
    exec (.sw rt imm rs) s = .next t → address (sampleInputs t) rs' imm' = a →
      ∃ u, exec (.lw rt' imm' rs') (sampleInputs t) = .next u ∧ u.pendingLoad = some ⟨rt', s.readReg rt⟩

/-- R267, the loads (derived): LWR at `a` and then LWL at `a + 3` leave pending the little-endian word of the bytes at `a` to
`a + 3`. -/
def Obligations.UnalignedLoadPair : Prop :=
  ∀ (s t : State) (rt rs rs' : RegNum) (imm imm' : BitVec 16) (r : Region) (off off' : Nat) (b0 b1 b2 b3 : Byte),
    let a := address s rs imm
    ¬Aligned .word a → IsMemory r → PassesChecks s a r off → PassesChecks s (a + 3) r off' →
    HoldsByte s a r b0 → HoldsByte s (a + 1) r b1 → HoldsByte s (a + 2) r b2 → HoldsByte s (a + 3) r b3 →
    exec (.lwr rt imm rs) s = .next t → address (sampleInputs t) rs' imm' = a + 3 →
      ∃ u, exec (.lwl rt imm' rs') (sampleInputs t) = .next u ∧ u.pendingLoad = some ⟨rt, b3 ++ b2 ++ b1 ++ b0⟩

/-- R267, the stores (derived): SWR at `a` and then SWL at `a + 3` write the four bytes of `rt` at `a` to `a + 3` and no other
byte. -/
def Obligations.UnalignedStorePair : Prop :=
  ∀ (s t : State) (rt rs rs' : RegNum) (imm imm' : BitVec 16) (r : Region) (off off1 off2 off' : Nat),
    let a := address s rs imm
    ¬Aligned .word a → (r.device = .ram ∨ r.device = .scratch) → PassesChecks s a r off → PassesChecks s (a + 3) r off' →
    Reaches (a + 1) r off1 → Reaches (a + 2) r off2 →
    exec (.swr rt imm rs) s = .next t → address (sampleInputs t) rs' imm' = a + 3 →
    (sampleInputs t).readReg rt = s.readReg rt →
      ∃ u, exec (.swl rt imm' rs') (sampleInputs t) = .next u ∧
        u.readByte (r.base + off) = byteOf (s.readReg rt) 0 ∧ u.readByte (r.base + off1) = byteOf (s.readReg rt) 1 ∧
        u.readByte (r.base + off2) = byteOf (s.readReg rt) 2 ∧ u.readByte (r.base + off') = byteOf (s.readReg rt) 3 ∧
        ∀ c, c ≠ r.base + off → c ≠ r.base + off1 → c ≠ r.base + off2 → c ≠ r.base + off' →
          u.readByte c = s.readByte c

/-- R81 (derived): only a store changes a byte of memory or a stale mark, and only a load or a store issues a bus operation. -/
def Obligations.OnlyStoresWrite : Prop :=
  ∀ (i : Instr) (s t : State), exec i s = .next t →
    (isStore i = false → KeepsBytes s t ∧ t.icacheStale = s.icacheStale) ∧
    (isStore i = false → isLoad i = false → t.busLog = s.busLog)

/-! ## Addresses (20_memory.md) -/

/-- The region table is well formed (R65; derived). -/
def Obligations.RegionTableWellFormed : Prop := regionTableWf Config.regionTable

/-- R62: segment folding, by the segment of the address; an address of KUSEG from 0x20000000 up is unmapped. -/
def Obligations.SegmentFolding : Prop :=
  ∀ a : Word,
    (a.toNat < 0x80000000 → foldAddress a = a.toNat) ∧
    (0x80000000 ≤ a.toNat → a.toNat < 0xA0000000 → foldAddress a = a.toNat - 0x80000000) ∧
    (0xA0000000 ≤ a.toNat → a.toNat < 0xC0000000 → foldAddress a = a.toNat - 0xA0000000) ∧
    (0xC0000000 ≤ a.toNat → foldAddress a = a.toNat) ∧
    (0x20000000 ≤ a.toNat → a.toNat < 0x80000000 → Unmapped a)

/-- R67, R68 (derived): every address leads to exactly one region and offset, or is unmapped; the router answers that region
and that offset, and an aligned access stays within the device's period. -/
def Obligations.Routing : Prop :=
  ∀ a : Word,
    ((Unmapped a ∧ route a = none) ∨ ∃ r off, Reaches a r off ∧ route a = some ⟨r, off⟩) ∧
    (∀ r off r' off', Reaches a r off → Reaches a r' off' → r = r' ∧ off = off') ∧
    (∀ r off w, Reaches a r off → Aligned w a → ¬Unmapped a ∧ off + w.bytes ≤ r.period)

/-- R91 (derived): the mirrors of main memory: KUSEG, KSEG0 and KSEG1, at every multiple of 2 MiB below 8 MiB, reach the same
RAM offset and so the same bytes. -/
def Obligations.Mirrors : Prop :=
  ∀ (a : Word), a.toNat < 0x00200000 →
    ∃ r, r.device = .ram ∧ r.base = 0 ∧ ∀ seg ∈ [0x00000000#32, 0x80000000#32, 0xA0000000#32], ∀ k < 4,
      Reaches (seg + a + BitVec.ofNat 32 (0x00200000 * k)) r a.toNat

/-- R93 (derived): the reset entry and the two vectors in the map. -/
def Obligations.FixedAddresses : Prop :=
  (∃ r, r.device = .bios ∧ Reaches 0xBFC00000 r 0) ∧ (∃ r, r.device = .bios ∧ Reaches 0xBFC00180 r 0x180) ∧
  (∃ r, r.device = .ram ∧ Reaches 0x80000080 r 0x80) ∧ State.reset.pc = 0xBFC00000

/-! ## System instructions and coprocessors (45_system_cop.md) -/

/-- R291, R292: SYSCALL and BREAK always take their exception, whatever their code field. -/
def Obligations.SoftwareTraps : Prop :=
  CodeRow 0x0C .syscall ∧ CodeRow 0x0D .brk ∧
  ∀ (s : State) (code : BitVec 20), Traps (.syscall code) s 8 none none ∧ Traps (.brk code) s 9 none none

/-- R293: MFC0 of each readable register is delivered like a load when coprocessor 0 is usable; every other register is
refused; unusable, CpU. -/
def Obligations.MoveFromCop0 : Prop :=
  MoveRow 0x00 .mfc0 ∧
  ∀ (s : State) (rt rd : RegNum),
    ((s.sr.getLsbD 1 = false ∨ s.sr.getLsbD 28 = true) →
      Delivers (.mfc0 rt 8) s ⟨rt, s.badVaddr⟩ s.busLog ∧ Delivers (.mfc0 rt 12) s ⟨rt, s.sr⟩ s.busLog ∧
      Delivers (.mfc0 rt 13) s ⟨rt, s.cause⟩ s.busLog ∧ Delivers (.mfc0 rt 14) s ⟨rt, s.epc⟩ s.busLog ∧
      Delivers (.mfc0 rt 15) s ⟨rt, Config.pridValue⟩ s.busLog ∧
      (rd ∉ [8#5, 12#5, 13#5, 14#5, 15#5] → exec (.mfc0 rt rd) s = .refused .cop0RegisterUnmodelled)) ∧
    (s.sr.getLsbD 1 = true → s.sr.getLsbD 28 = false → Traps (.mfc0 rt rd) s 11 none (some 0))

/-- R295: MTC0 writes all of SR, or bits 9:8 of Cause, or nothing; a nonzero write to register 7 is refused; unusable, CpU. -/
def Obligations.MoveToCop0 : Prop :=
  MoveRow 0x04 .mtc0 ∧
  ∀ (s : State) (rt rd : RegNum), let v := s.readReg rt
    ((s.sr.getLsbD 1 = false ∨ s.sr.getLsbD 28 = true) →
      (¬(rd = 7#5 ∧ v ≠ 0#32) → ∃ t, exec (.mtc0 rt rd) s = .next t ∧ Completed s t none none none ∧
        KeepsHiLo s t ∧ KeepsExceptionRegs s t ∧ KeepsInputs s t ∧ Ages s t ∧ KeepsMemory s t ∧
        t.sr = (if rd = 12#5 then v else s.sr) ∧
        (∀ k < 32, t.cause.getLsbD k =
          if rd = 13#5 ∧ (k = 8 ∨ k = 9) then v.getLsbD k else s.cause.getLsbD k)) ∧
      (rd = 7#5 → v ≠ 0#32 → exec (.mtc0 rt rd) s = .refused .cop0RegisterUnmodelled)) ∧
    (s.sr.getLsbD 1 = true → s.sr.getLsbD 28 = false → Traps (.mtc0 rt rd) s 11 none (some 0))

/-- R294: RFE pops the privilege stack and keeps the old pair and the rest of SR; unusable, CpU. -/
def Obligations.ReturnFromException : Prop :=
  (∀ w : Word, w.extractLsb' 26 6 = 0x10#6 → w.getLsbD 25 = true → w.extractLsb' 0 6 = 0x10#6 → decode w = .ok .rfe) ∧
  ∀ s : State,
    ((s.sr.getLsbD 1 = false ∨ s.sr.getLsbD 28 = true) →
      ∃ t, exec .rfe s = .next t ∧ Completed s t none none none ∧
        t.sr.extractLsb' 0 4 = s.sr.extractLsb' 2 4 ∧ t.sr.extractLsb' 4 28 = s.sr.extractLsb' 4 28 ∧ t.cause = s.cause ∧
        KeepsHiLo s t ∧ KeepsExceptionRegs s t ∧ KeepsInputs s t ∧ Ages s t ∧ KeepsMemory s t) ∧
    (s.sr.getLsbD 1 = true → s.sr.getLsbD 28 = false → Traps .rfe s 11 none (some 0))

/-- R297: COP1, COP2 and COP3 raise CpU with their number while SR.CUz = 0, and are refused while it is 1. The spec gives them
no other effect. -/
def Obligations.OtherCoprocessors : Prop :=
  TargetRow 0x11 .cop1 ∧ TargetRow 0x12 .cop2 ∧ TargetRow 0x13 .cop3 ∧
  ∀ (s : State) (c : BitVec 26),
    (s.sr.getLsbD 29 = false → Traps (.cop1 c) s 11 none (some 1)) ∧
    (s.sr.getLsbD 30 = false → Traps (.cop2 c) s 11 none (some 2)) ∧
    (s.sr.getLsbD 31 = false → Traps (.cop3 c) s 11 none (some 3)) ∧
    (s.sr.getLsbD 29 = true → exec (.cop1 c) s = .refused .noCoprocessor) ∧
    (s.sr.getLsbD 30 = true → exec (.cop2 c) s = .refused .cop2OutOfScope) ∧
    (s.sr.getLsbD 31 = true → exec (.cop3 c) s = .refused .noCoprocessor)

/-- R298: the coprocessor loads and stores: LWC0 and SWC0 are always refused, the others raise CpU while SR.CUz = 0 and are
refused while it is 1. The spec gives them no other effect. -/
def Obligations.CoprocessorLoadsStores : Prop :=
  ImmRow 0x30 (fun rs rt imm => .lwc0 rt imm rs) ∧ ImmRow 0x31 (fun rs rt imm => .lwc1 rt imm rs) ∧
  ImmRow 0x32 (fun rs rt imm => .lwc2 rt imm rs) ∧ ImmRow 0x33 (fun rs rt imm => .lwc3 rt imm rs) ∧
  ImmRow 0x38 (fun rs rt imm => .swc0 rt imm rs) ∧ ImmRow 0x39 (fun rs rt imm => .swc1 rt imm rs) ∧
  ImmRow 0x3A (fun rs rt imm => .swc2 rt imm rs) ∧ ImmRow 0x3B (fun rs rt imm => .swc3 rt imm rs) ∧
  ∀ (s : State) (rt rs : RegNum) (imm : BitVec 16),
    exec (.lwc0 rt imm rs) s = .refused .cop0LoadStore ∧ exec (.swc0 rt imm rs) s = .refused .cop0LoadStore ∧
    (s.sr.getLsbD 29 = false → Traps (.lwc1 rt imm rs) s 11 none (some 1) ∧ Traps (.swc1 rt imm rs) s 11 none (some 1)) ∧
    (s.sr.getLsbD 30 = false → Traps (.lwc2 rt imm rs) s 11 none (some 2) ∧ Traps (.swc2 rt imm rs) s 11 none (some 2)) ∧
    (s.sr.getLsbD 31 = false → Traps (.lwc3 rt imm rs) s 11 none (some 3) ∧ Traps (.swc3 rt imm rs) s 11 none (some 3)) ∧
    (s.sr.getLsbD 29 = true → exec (.lwc1 rt imm rs) s = .refused .noCoprocessor ∧
      exec (.swc1 rt imm rs) s = .refused .noCoprocessor) ∧
    (s.sr.getLsbD 30 = true → exec (.lwc2 rt imm rs) s = .refused .cop2OutOfScope ∧
      exec (.swc2 rt imm rs) s = .refused .cop2OutOfScope) ∧
    (s.sr.getLsbD 31 = true → exec (.lwc3 rt imm rs) s = .refused .noCoprocessor ∧
      exec (.swc3 rt imm rs) s = .refused .noCoprocessor)

/-! ## Words that are no instruction (30_encoding.md) -/

/-- R111 (derived: R107, R108): a word whose primary opcode or function code has no cell takes RI. -/
def Obligations.ReservedWords : Prop :=
  ∀ (w : Word) (s : State), let op := (w.extractLsb' 26 6).toNat; let f := (w.extractLsb' 0 6).toNat
    (op ∈ [0x14, 0x15, 0x16, 0x17, 0x18, 0x19, 0x1A, 0x1B, 0x1C, 0x1D, 0x1E, 0x1F, 0x27, 0x2C, 0x2D, 0x2F, 0x34, 0x35, 0x36,
        0x37, 0x3C, 0x3D, 0x3E, 0x3F] ∨
      (op = 0 ∧ (f ∈ [0x01, 0x05, 0x0A, 0x0B, 0x0E, 0x0F, 0x14, 0x15, 0x16, 0x17, 0x1C, 0x1D, 0x1E, 0x1F, 0x28, 0x29] ∨
        0x2C ≤ f))) →
    ∃ t, runWord w s = .next t ∧ TakenException s t 10 none none

/-- R299, R110, R296 (derived): a COP0 word that is not MFC0, MTC0 or RFE takes RI when coprocessor 0 is usable, and CpU when it is
not; R109, R112: a REGIMM word that is none of the four branches is refused. -/
def Obligations.OtherWords : Prop :=
  ∀ (w : Word) (s : State), let op := w.extractLsb' 26 6; let rs := w.extractLsb' 21 5; let rt := w.extractLsb' 16 5
    (op = 1#6 → rt ∉ [0x00#5, 0x01#5, 0x10#5, 0x11#5] → runWord w s = .refused .regimmAlias) ∧
    (op = 0x10#6 → ((w.getLsbD 25 = false ∧ rs ∉ [0x00#5, 0x04#5]) ∨ (w.getLsbD 25 = true ∧ w.extractLsb' 0 6 ≠ 0x10#6)) →
      ((s.sr.getLsbD 1 = false ∨ s.sr.getLsbD 28 = true) → ∃ t, runWord w s = .next t ∧ TakenException s t 10 none none) ∧
      (s.sr.getLsbD 1 = true → s.sr.getLsbD 28 = false → ∃ t, runWord w s = .next t ∧ TakenException s t 11 none (some 0)))

/-! ## Exceptions, interrupts and privilege (60_exceptions.md) -/

/-- R145, R330, R332, R333, R335: taking an exception, for every cause of R320: what EPC, Cause, BadVaddr and SR take, where
the pc goes, and that the carried-in load completes while nothing else is written. -/
def Obligations.ExceptionEntry : Prop :=
  ∀ (s : State) (a : Word) (z : BitVec 2),
    TakenException s (takeException .int s) 0 none none ∧ TakenException s (takeException (.adEL a) s) 4 (some a) none ∧
    TakenException s (takeException (.adES a) s) 5 (some a) none ∧ TakenException s (takeException .ibe s) 6 none none ∧
    TakenException s (takeException .dbe s) 7 none none ∧ TakenException s (takeException .sys s) 8 none none ∧
    TakenException s (takeException .bp s) 9 none none ∧ TakenException s (takeException .ri s) 10 none none ∧
    TakenException s (takeException (.cpU z) s) 11 none (some z) ∧ TakenException s (takeException .ov s) 12 none none

/-- R300 (derived): exception entry and then RFE restore the current and previous pairs and leave the previous pair in the old
one. -/
def Obligations.StackRoundTrip : Prop :=
  ∀ (s t : State) (c : BitVec 5) (bad : Option Word) (ce : Option (BitVec 2)), TakenException s t c bad ce →
    ∃ u, exec .rfe t = .next u ∧ u.sr.extractLsb' 0 4 = s.sr.extractLsb' 0 4 ∧
      u.sr.extractLsb' 6 26 = s.sr.extractLsb' 6 26 ∧ u.sr.extractLsb' 4 2 = s.sr.extractLsb' 2 2

/-- R301 (derived): in user mode with SR.CU0 = 0 an instruction changes SR, Cause, EPC and BadVaddr only by taking an
exception, and no load, store or fetch reaches an address with bit 31 set. -/
def Obligations.PrivilegeLaw : Prop :=
  ∀ s : State, s.sr.getLsbD 1 = true →
    (s.sr.getLsbD 28 = false → ∀ (i : Instr) (t : State), exec i s = .next t →
      (∃ c bad ce, TakenException s t c bad ce) ∨ (KeepsStatus s t ∧ KeepsExceptionRegs s t)) ∧
    (∀ (rt rs : RegNum) (imm : BitVec 16), (address s rs imm).getLsbD 31 = true →
      (∀ i ∈ [Instr.lb rt imm rs, .lbu rt imm rs, .lh rt imm rs, .lhu rt imm rs, .lw rt imm rs, .lwl rt imm rs,
          .lwr rt imm rs], Traps i s 4 (some (address s rs imm)) none) ∧
      (∀ i ∈ [Instr.sb rt imm rs, .sh rt imm rs, .sw rt imm rs, .swl rt imm rs, .swr rt imm rs],
        Traps i s 5 (some (address s rs imm)) none)) ∧
    (s.pc.getLsbD 31 = true → ¬InterruptTaken s →
      ∃ t, step s = .next t ∧ TakenException (sampleInputs s) t 4 (some s.pc) none)

/-- R42 (derived): an instruction changes SR only as MTC0 to register 12 (all bits), by taking an exception (bits 5:0) or as
RFE (bits 3:0). -/
def Obligations.StatusWriters : Prop :=
  ∀ (i : Instr) (s t : State), exec i s = .next t →
    t.sr = s.sr ∨ (∃ rt, i = .mtc0 rt 12#5 ∧ t.sr = s.readReg rt) ∨
    (i = .rfe ∧ t.sr.extractLsb' 4 28 = s.sr.extractLsb' 4 28) ∨
    (∃ c bad ce, TakenException s t c bad ce)

/-- R337 (derived): every instruction that ends in a next state has either completed, leaving EPC and BadVaddr alone, or taken
an exception of R320 with none of its own effects; what it does to every register is its write, its carried-in load, or nothing,
and it leaves a pending branch exactly when it is a branch or jump, from its own address. -/
def Obligations.PreciseExceptions : Prop :=
  ∀ (i : Instr) (s t : State), exec i s = .next t →
    ((∃ w l b, Completed s t w l b ∧ (∀ r v, w = some (r, v) → writeDest i = some r) ∧
        (∀ p, l = some p → loadDest i = some p.reg) ∧ b.isSome = isBranch i ∧ (∀ p, b = some p → p.origin = s.pc) ∧
        KeepsExceptionRegs s t ∧ KeepsInputs s t) ∨
      (∃ c bad ce, TakenException s t c bad ce ∧ c.toNat ∈ [4, 5, 7, 8, 9, 11, 12] ∧
        (bad ≠ none ↔ c.toNat = 4 ∨ c.toNat = 5)))

/-- R323 (derived: how an external device answers with a fault is the model's choice, log 4): an instruction faults or is refused
only for the reason and in the case that its rule names. -/
def Obligations.StopsOnlyWhereNamed : Prop :=
  ∀ (i : Instr) (s : State),
    (∀ f, exec i s = .fault f →
      (f = .hiLoHazard ∧ writesHiLo i = true ∧ 0 < s.hiloAge) ∨
      (f = .deviceContractViolation ∧ DeviceFaults i s)) ∧
    (∀ r, exec i s = .refused r → RefusedFor i s r)

/-- R345: a step outside a delay slot, with an enabled interrupt pending once the lines are sampled, takes Int with EPC = pc
and runs nothing; a step in a delay slot takes none, whatever the lines, and runs the instruction at pc (R132). -/
def Obligations.Interrupts : Prop :=
  ∀ s : State,
    (InterruptTaken s → ∃ t, step s = .next t ∧ TakenException (sampleInputs s) t 0 none none ∧ t.epc = s.pc) ∧
    (s.pendingBranch ≠ none → ∀ r off i, PassesFetch s r off → IsMemory r → decode (wordAt s (r.base + off)) = .ok i →
      step s = exec i (sampleInputs s))

/-! ## The step (40_step_cycle.md) -/

/-- R44, R131: the start of a step sets Cause.IP[7:2] from the lines and changes nothing else of the core; the model's own
fields move on to the next draw (log 1, log 8: the model's choice). -/
def Obligations.SampledInputs : Prop :=
  ∀ s : State, let u := sampleInputs s
    (∀ k < 32, u.cause.getLsbD k = if 10 ≤ k ∧ k < 16 then s.lines.getLsbD (k - 10) else s.cause.getLsbD k) ∧
    (∀ l ls, s.intLines = l :: ls → s.lines = l ∧ u.intLines = ls) ∧
    u = { s with cause := u.cause, intLines := u.intLines, tick := s.tick + 1 }

/-- R130, R133, R134 (derived): where no interrupt is taken and the four bytes at pc, in a memory device, decode to `i`, the
step is `i` in the state whose inputs are sampled: the step adds nothing else around an instruction. -/
def Obligations.StepRunsDecoded : Prop :=
  ∀ (s : State) (r : Region) (off : Nat) (i : Instr), ¬InterruptTaken s → PassesFetch s r off → IsMemory r →
    decode (wordOfBytes (s.readByte (r.base + off)) (s.readByte (r.base + off + 1)) (s.readByte (r.base + off + 2))
      (s.readByte (r.base + off + 3))) = .ok i →
    step s = exec i (sampleInputs s)

/-- R79 (derived): the fetch, each check in order, where no interrupt is taken; `runWord` decodes the word and runs it. How an
external device is represented is the model's choice (log 4). -/
def Obligations.FetchRule : Prop :=
  ∀ s : State, ¬InterruptTaken s → let u := sampleInputs s; let a := s.pc
    (¬Aligned .word a → ∃ t, step s = .next t ∧ TakenException u t 4 (some a) none) ∧
    (Aligned .word a → Forbidden s a → ∃ t, step s = .next t ∧ TakenException u t 4 (some a) none) ∧
    (Aligned .word a → ¬Forbidden s a → Reversed s → step s = .refused .reverseEndian) ∧
    (Aligned .word a → ¬Forbidden s a → ¬Reversed s → Unmapped a →
      ∃ t, step s = .next t ∧ TakenException u t 6 none none) ∧
    (∀ r off, Aligned .word a → ¬Forbidden s a → ¬Reversed s → Reaches a r off → r.device = .scratch →
      step s = .refused .scratchpadAlias) ∧
    (∀ r off, Aligned .word a → ¬Forbidden s a → ¬Reversed s → Reaches a r off → r.device ≠ .scratch →
      a.extractLsb' 29 3 ≤ 4#3 → (r.device, off) ∈ s.icacheStale → step s = .fault .staleInstructionFetch) ∧
    (∀ r off, PassesFetch s r off →
      if IsMemory r then step s = runWord (wordAt s (r.base + off)) u
      else
        match Config.deviceAnswer u.tick u.busLog (.read r.device off .word) with
        | none => step s = .fault .deviceContractViolation
        | some w => step s = runWord w { u with busLog := .read r.device off .word :: u.busLog })

/-- The tool's placement (log 6: the model's choice): an instruction placed by `withFetchWord` is the one the next step runs.
-/
def Obligations.PlacedWordRuns : Prop :=
  ∀ (s : State) (r : Region) (off : Nat) (i : Instr), ¬InterruptTaken s → Aligned .word s.pc →
    ¬Forbidden s s.pc → ¬Reversed s → Reaches s.pc r off → (r.device = .ram ∨ r.device = .bios) →
    step (s.withFetchWord 32 (encode i).toNat) = exec i (sampleInputs (s.withFetchWord 32 (encode i).toNat))

/-! ## Encoding (30_encoding.md) -/

/-- Decode and encode agree for every instruction with every operand, and the decoder hands back the bytes that follow. -/
def Obligations.DecodeEncode : Prop :=
  ∀ (i : Instr) (rest : List Byte), decode (encode i) = .ok i ∧ decodeBytes (bytesOfWord (encode i) ++ rest) = .ok (i, rest)

/-- The decoder and spec/opcode_table.json agree: a decoded word has the fixed bits of its instruction's row, a rejected word
those of no row, and no word those of two rows. -/
def Obligations.DecoderFollowsTable : Prop :=
  (∀ (w : Word) (i : Instr), decode w = .ok i → i.row.fits w = true) ∧
  (∀ (w : Word) (e : DecodeError), decode w = .error e → ∀ i : Instr, i.row.fits w = false) ∧
  (∀ (w : Word) (i j : Instr), i.row.fits w = true → j.row.fits w = true → i.row = j.row)

/-- Words written out from the spec's own examples, one of each family, decode to the instruction they stand for. -/
def Obligations.ExampleWords : Prop :=
  decode 0x00221820 = .ok (.add 3 1 2) ∧ decode 0x2022FFFF = .ok (.addi 2 1 0xFFFF) ∧
  decode 0x00021903 = .ok (.sra 3 2 4) ∧ decode 0x00220018 = .ok (.mult 1 2) ∧
  decode 0x08004000 = .ok (.j 0x4000) ∧ decode 0x0080F809 = .ok (.jalr 31 4) ∧
  decode 0x04310004 = .ok (.bgezal 1 4) ∧ decode 0x88220004 = .ok (.lwl 2 4 1) ∧
  decode 0xA4220002 = .ok (.sh 2 2 1) ∧ decode 0x000001CD = .ok (.brk 7) ∧
  decode 0x40826000 = .ok (.mtc0 2 12) ∧ decode 0x42000010 = .ok .rfe ∧
  decode 0x48000000 = .ok (.cop2 0) ∧ decode 0xC8220000 = .ok (.lwc2 2 0 1)

/-! ## Reset and the host's ports (70_reset_and_hazards.md, 10_state.md) -/

/-- R370: what the reset operation leaves, from every state. Power-on is the same operation: it leaves `State.reset` but for EPC
and BadVaddr, which are draws of which nothing is said, the memory, and what stands for the devices, the lines and the draws. -/
def Obligations.ResetOperation : Prop :=
  ∀ s : State, let t := s.hostReset
    (∀ r : RegNum, t.readReg r = 0) ∧ t.hi = 0 ∧ t.lo = 0 ∧ t.pendingLoad = none ∧ t.pendingBranch = none ∧
    t.hiloAge = 0 ∧ t.icacheStale = [] ∧ t.sr = 0x00400000 ∧ t.cause = 0 ∧ t.pc = 0xBFC00000 ∧ t.nextPc = 0xBFC00004 ∧
    KeepsBytes s t ∧ t.busLog = s.busLog ∧
    t = { State.reset with epc := t.epc, badVaddr := t.badVaddr, mem := t.mem, busLog := t.busLog, intLines := t.intLines,
                           tick := t.tick }

/-- R375, R377, R370 (derived; what the host provides and when a load fails: log 32, the model's choice): constructing the core
for power-on. Without a firmware image, or with one that BIOS cannot hold, there is no state, and so no step. With one there is
a launch state: the reset state with the image in BIOS, every other byte as before, and the host's lines; and its first step
runs the instruction in the image's first four bytes. EPC, BadVaddr and the other bytes are those of `State.reset`, opaque draws
by the model's choice (log 2, log 5). -/
def Obligations.PowerOn : Prop :=
  ∀ (image : List Byte) (lines : List (BitVec 6)),
    ((image = [] ∨ 0x80000 < image.length) → State.powerOn image lines = none) ∧
    (image ≠ [] → image.length ≤ 0x80000 → ∃ s, State.powerOn image lines = some s ∧ LaunchState s ∧
      s = { State.reset with mem := s.mem, intLines := lines } ∧
      (∀ (k : Nat) (h : k < image.length), s.readByte (0x1FC00000 + k) = image[k]) ∧
      (∀ c, (c < 0x1FC00000 ∨ 0x1FC00000 + image.length ≤ c) → s.readByte c = State.reset.readByte c) ∧
      (∀ b0 b1 b2 b3 rest i, image = b0 :: b1 :: b2 :: b3 :: rest → decode (wordOfBytes b0 b1 b2 b3) = .ok i →
        step s = exec i (sampleInputs s)))

/-- R371 (derived): after reset, whatever the lines, the first step runs the instruction at BIOS offset 0, and an exception
that it takes goes to the firmware vector. -/
def Obligations.FirstStepAfterReset : Prop :=
  ∀ (s : State) (i : Instr), decode (wordAt s 0x1FC00000) = .ok i →
    step s.hostReset = exec i (sampleInputs s.hostReset) ∧
    ∀ t c bad ce, TakenException (sampleInputs s.hostReset) t c bad ce → t.pc = 0xBFC00180

/-- R52: the snapshot port returns every register of its list. -/
def Obligations.SnapshotPort : Prop :=
  ∀ (s : State) (r : RegNum),
    s.snapshot.x[r.toNat]'r.isLt = s.readReg r ∧ s.snapshot.pc = s.pc ∧ s.snapshot.nextPc = s.nextPc ∧
    s.snapshot.hi = s.hi ∧ s.snapshot.lo = s.lo ∧ s.snapshot.sr = s.sr ∧ s.snapshot.cause = s.cause ∧
    s.snapshot.epc = s.epc ∧ s.snapshot.badVaddr = s.badVaddr ∧ s.snapshot.prid = Config.pridValue

/-! ## Invariants -/

/-- The invariant holds at reset, and the reset operation keeps it. -/
def Obligations.ResetInvariant : Prop := CoreInv State.reset ∧ ∀ s : State, CoreInv s → CoreInv s.hostReset

/-- Every step keeps the invariant: the memory's canonical form and extent, register 0, `next_pc`, the read age, the bits of
Cause that are never written and its exception code, the stale marks, and the origin of a pending branch. -/
def Obligations.StepKeepsInvariant : Prop := ∀ s t : State, CoreInv s → step s = .next t → CoreInv t

/-- R76 (derived): no step changes a byte of the firmware, in any mode and from any state. -/
def Obligations.FirmwareNeverChanges : Prop :=
  ∀ (s t : State) (c : Nat), step s = .next t → firmwareCell c = true → t.readByte c = s.readByte c

end
end

