-- ==== Sys2Proof/Laws/State.lean ====
section
/-! SUPPORT. One lemma per field and update of State, each true by rfl, so that no later proof unfolds a record update. -/

namespace Sys2Proof.Machine

/-! ### `commit` -/

@[simp] theorem commit_regs (e : Staged) (s : State) :
    (commit e s).regs = committedRegs s e := rfl
@[simp] theorem commit_hi (e : Staged) (s : State) :
    (commit e s).hi = e.hi.getD s.hi := rfl
@[simp] theorem commit_lo (e : Staged) (s : State) :
    (commit e s).lo = e.lo.getD s.lo := rfl
@[simp] theorem commit_pc (e : Staged) (s : State) :
    (commit e s).pc = nextFetch s := rfl
@[simp] theorem commit_nextPc (e : Staged) (s : State) :
    (commit e s).nextPc = nextFetch s + 4 := rfl
@[simp] theorem commit_pendingLoad (e : Staged) (s : State) :
    (commit e s).pendingLoad = e.load := rfl
@[simp] theorem commit_pendingBranch (e : Staged) (s : State) :
    (commit e s).pendingBranch = e.branch := rfl
@[simp] theorem commit_hiloAge (e : Staged) (s : State) :
    (commit e s).hiloAge = if e.movesHiLo then 2 else s.hiloAge - 1 := rfl
@[simp] theorem commit_sr (e : Staged) (s : State) :
    (commit e s).sr = e.sr.getD s.sr := rfl
@[simp] theorem commit_cause (e : Staged) (s : State) :
    (commit e s).cause = e.cause.getD s.cause := rfl
@[simp] theorem commit_epc (e : Staged) (s : State) :
    (commit e s).epc = s.epc := rfl
@[simp] theorem commit_badVaddr (e : Staged) (s : State) :
    (commit e s).badVaddr = s.badVaddr := rfl
@[simp] theorem commit_mem (e : Staged) (s : State) :
    (commit e s).mem = s.mem := rfl
@[simp] theorem commit_icacheStale (e : Staged) (s : State) :
    (commit e s).icacheStale = s.icacheStale := rfl
@[simp] theorem commit_busLog (e : Staged) (s : State) :
    (commit e s).busLog = s.busLog := rfl
@[simp] theorem commit_intLines (e : Staged) (s : State) :
    (commit e s).intLines = s.intLines := rfl
@[simp] theorem commit_tick (e : Staged) (s : State) :
    (commit e s).tick = s.tick := rfl

/-! ### `takeException` -/

@[simp] theorem takeException_regs (e : Exc) (s : State) :
    (takeException e s).regs = exceptionRegs s := rfl
@[simp] theorem takeException_hi (e : Exc) (s : State) :
    (takeException e s).hi = s.hi := rfl
@[simp] theorem takeException_lo (e : Exc) (s : State) :
    (takeException e s).lo = s.lo := rfl
@[simp] theorem takeException_pc (e : Exc) (s : State) :
    (takeException e s).pc = vector s := rfl
@[simp] theorem takeException_nextPc (e : Exc) (s : State) :
    (takeException e s).nextPc = vector s + 4 := rfl
@[simp] theorem takeException_pendingLoad (e : Exc) (s : State) :
    (takeException e s).pendingLoad = none := rfl
@[simp] theorem takeException_pendingBranch (e : Exc) (s : State) :
    (takeException e s).pendingBranch = none := rfl
@[simp] theorem takeException_hiloAge (e : Exc) (s : State) :
    (takeException e s).hiloAge = s.hiloAge - 1 := rfl
@[simp] theorem takeException_sr (e : Exc) (s : State) :
    (takeException e s).sr = pushStack s.sr := rfl
@[simp] theorem takeException_cause (e : Exc) (s : State) :
    (takeException e s).cause = causeAtEntry s.pendingBranch.isSome (e.ce s.tick) e.code s.cause := rfl
@[simp] theorem takeException_epc (e : Exc) (s : State) :
    (takeException e s).epc = epcAtEntry s := rfl
@[simp] theorem takeException_badVaddr (e : Exc) (s : State) :
    (takeException e s).badVaddr = e.badVaddr s.badVaddr := rfl
@[simp] theorem takeException_mem (e : Exc) (s : State) :
    (takeException e s).mem = s.mem := rfl
@[simp] theorem takeException_icacheStale (e : Exc) (s : State) :
    (takeException e s).icacheStale = s.icacheStale := rfl
@[simp] theorem takeException_busLog (e : Exc) (s : State) :
    (takeException e s).busLog = s.busLog := rfl
@[simp] theorem takeException_intLines (e : Exc) (s : State) :
    (takeException e s).intLines = s.intLines := rfl
@[simp] theorem takeException_tick (e : Exc) (s : State) :
    (takeException e s).tick = s.tick := rfl

/-! ### `sampleInputs` -/

@[simp] theorem sampleInputs_regs (s : State) :
    (sampleInputs s).regs = s.regs := rfl
@[simp] theorem sampleInputs_hi (s : State) :
    (sampleInputs s).hi = s.hi := rfl
@[simp] theorem sampleInputs_lo (s : State) :
    (sampleInputs s).lo = s.lo := rfl
@[simp] theorem sampleInputs_pc (s : State) :
    (sampleInputs s).pc = s.pc := rfl
@[simp] theorem sampleInputs_nextPc (s : State) :
    (sampleInputs s).nextPc = s.nextPc := rfl
@[simp] theorem sampleInputs_pendingLoad (s : State) :
    (sampleInputs s).pendingLoad = s.pendingLoad := rfl
@[simp] theorem sampleInputs_pendingBranch (s : State) :
    (sampleInputs s).pendingBranch = s.pendingBranch := rfl
@[simp] theorem sampleInputs_hiloAge (s : State) :
    (sampleInputs s).hiloAge = s.hiloAge := rfl
@[simp] theorem sampleInputs_sr (s : State) :
    (sampleInputs s).sr = s.sr := rfl
@[simp] theorem sampleInputs_cause (s : State) :
    (sampleInputs s).cause = causeWithLines s.cause s.lines := rfl
@[simp] theorem sampleInputs_epc (s : State) :
    (sampleInputs s).epc = s.epc := rfl
@[simp] theorem sampleInputs_badVaddr (s : State) :
    (sampleInputs s).badVaddr = s.badVaddr := rfl
@[simp] theorem sampleInputs_mem (s : State) :
    (sampleInputs s).mem = s.mem := rfl
@[simp] theorem sampleInputs_icacheStale (s : State) :
    (sampleInputs s).icacheStale = s.icacheStale := rfl
@[simp] theorem sampleInputs_busLog (s : State) :
    (sampleInputs s).busLog = s.busLog := rfl
@[simp] theorem sampleInputs_intLines (s : State) :
    (sampleInputs s).intLines = s.intLines.tail := rfl
@[simp] theorem sampleInputs_tick (s : State) :
    (sampleInputs s).tick = s.tick + 1 := rfl

/-! ### `setMem` -/

@[simp] theorem setMem_regs (m : Memory) (s : State) :
    (setMem m s).regs = s.regs := rfl
@[simp] theorem setMem_hi (m : Memory) (s : State) :
    (setMem m s).hi = s.hi := rfl
@[simp] theorem setMem_lo (m : Memory) (s : State) :
    (setMem m s).lo = s.lo := rfl
@[simp] theorem setMem_pc (m : Memory) (s : State) :
    (setMem m s).pc = s.pc := rfl
@[simp] theorem setMem_nextPc (m : Memory) (s : State) :
    (setMem m s).nextPc = s.nextPc := rfl
@[simp] theorem setMem_pendingLoad (m : Memory) (s : State) :
    (setMem m s).pendingLoad = s.pendingLoad := rfl
@[simp] theorem setMem_pendingBranch (m : Memory) (s : State) :
    (setMem m s).pendingBranch = s.pendingBranch := rfl
@[simp] theorem setMem_hiloAge (m : Memory) (s : State) :
    (setMem m s).hiloAge = s.hiloAge := rfl
@[simp] theorem setMem_sr (m : Memory) (s : State) :
    (setMem m s).sr = s.sr := rfl
@[simp] theorem setMem_cause (m : Memory) (s : State) :
    (setMem m s).cause = s.cause := rfl
@[simp] theorem setMem_epc (m : Memory) (s : State) :
    (setMem m s).epc = s.epc := rfl
@[simp] theorem setMem_badVaddr (m : Memory) (s : State) :
    (setMem m s).badVaddr = s.badVaddr := rfl
@[simp] theorem setMem_mem (m : Memory) (s : State) :
    (setMem m s).mem = m := rfl
@[simp] theorem setMem_icacheStale (m : Memory) (s : State) :
    (setMem m s).icacheStale = s.icacheStale := rfl
@[simp] theorem setMem_busLog (m : Memory) (s : State) :
    (setMem m s).busLog = s.busLog := rfl
@[simp] theorem setMem_intLines (m : Memory) (s : State) :
    (setMem m s).intLines = s.intLines := rfl
@[simp] theorem setMem_tick (m : Memory) (s : State) :
    (setMem m s).tick = s.tick := rfl

/-! ### `logBus` -/

@[simp] theorem logBus_regs (op : BusOp) (s : State) :
    (logBus op s).regs = s.regs := rfl
@[simp] theorem logBus_hi (op : BusOp) (s : State) :
    (logBus op s).hi = s.hi := rfl
@[simp] theorem logBus_lo (op : BusOp) (s : State) :
    (logBus op s).lo = s.lo := rfl
@[simp] theorem logBus_pc (op : BusOp) (s : State) :
    (logBus op s).pc = s.pc := rfl
@[simp] theorem logBus_nextPc (op : BusOp) (s : State) :
    (logBus op s).nextPc = s.nextPc := rfl
@[simp] theorem logBus_pendingLoad (op : BusOp) (s : State) :
    (logBus op s).pendingLoad = s.pendingLoad := rfl
@[simp] theorem logBus_pendingBranch (op : BusOp) (s : State) :
    (logBus op s).pendingBranch = s.pendingBranch := rfl
@[simp] theorem logBus_hiloAge (op : BusOp) (s : State) :
    (logBus op s).hiloAge = s.hiloAge := rfl
@[simp] theorem logBus_sr (op : BusOp) (s : State) :
    (logBus op s).sr = s.sr := rfl
@[simp] theorem logBus_cause (op : BusOp) (s : State) :
    (logBus op s).cause = s.cause := rfl
@[simp] theorem logBus_epc (op : BusOp) (s : State) :
    (logBus op s).epc = s.epc := rfl
@[simp] theorem logBus_badVaddr (op : BusOp) (s : State) :
    (logBus op s).badVaddr = s.badVaddr := rfl
@[simp] theorem logBus_mem (op : BusOp) (s : State) :
    (logBus op s).mem = s.mem := rfl
@[simp] theorem logBus_icacheStale (op : BusOp) (s : State) :
    (logBus op s).icacheStale = s.icacheStale := rfl
@[simp] theorem logBus_busLog (op : BusOp) (s : State) :
    (logBus op s).busLog = op :: s.busLog := rfl
@[simp] theorem logBus_intLines (op : BusOp) (s : State) :
    (logBus op s).intLines = s.intLines := rfl
@[simp] theorem logBus_tick (op : BusOp) (s : State) :
    (logBus op s).tick = s.tick := rfl

/-! ### `noteStore` -/

@[simp] theorem noteStore_regs (g : Target) (s : State) :
    (noteStore g s).regs = s.regs := rfl
@[simp] theorem noteStore_hi (g : Target) (s : State) :
    (noteStore g s).hi = s.hi := rfl
@[simp] theorem noteStore_lo (g : Target) (s : State) :
    (noteStore g s).lo = s.lo := rfl
@[simp] theorem noteStore_pc (g : Target) (s : State) :
    (noteStore g s).pc = s.pc := rfl
@[simp] theorem noteStore_nextPc (g : Target) (s : State) :
    (noteStore g s).nextPc = s.nextPc := rfl
@[simp] theorem noteStore_pendingLoad (g : Target) (s : State) :
    (noteStore g s).pendingLoad = s.pendingLoad := rfl
@[simp] theorem noteStore_pendingBranch (g : Target) (s : State) :
    (noteStore g s).pendingBranch = s.pendingBranch := rfl
@[simp] theorem noteStore_hiloAge (g : Target) (s : State) :
    (noteStore g s).hiloAge = s.hiloAge := rfl
@[simp] theorem noteStore_sr (g : Target) (s : State) :
    (noteStore g s).sr = s.sr := rfl
@[simp] theorem noteStore_cause (g : Target) (s : State) :
    (noteStore g s).cause = s.cause := rfl
@[simp] theorem noteStore_epc (g : Target) (s : State) :
    (noteStore g s).epc = s.epc := rfl
@[simp] theorem noteStore_badVaddr (g : Target) (s : State) :
    (noteStore g s).badVaddr = s.badVaddr := rfl
@[simp] theorem noteStore_mem (g : Target) (s : State) :
    (noteStore g s).mem = s.mem := rfl
@[simp] theorem noteStore_icacheStale (g : Target) (s : State) :
    (noteStore g s).icacheStale = insertMark (markOf g) s.icacheStale := rfl
@[simp] theorem noteStore_busLog (g : Target) (s : State) :
    (noteStore g s).busLog = s.busLog := rfl
@[simp] theorem noteStore_intLines (g : Target) (s : State) :
    (noteStore g s).intLines = s.intLines := rfl
@[simp] theorem noteStore_tick (g : Target) (s : State) :
    (noteStore g s).tick = s.tick := rfl

/-! ### `invalidateLine` -/

@[simp] theorem invalidateLine_regs (a : Word) (s : State) :
    (invalidateLine a s).regs = s.regs := rfl
@[simp] theorem invalidateLine_hi (a : Word) (s : State) :
    (invalidateLine a s).hi = s.hi := rfl
@[simp] theorem invalidateLine_lo (a : Word) (s : State) :
    (invalidateLine a s).lo = s.lo := rfl
@[simp] theorem invalidateLine_pc (a : Word) (s : State) :
    (invalidateLine a s).pc = s.pc := rfl
@[simp] theorem invalidateLine_nextPc (a : Word) (s : State) :
    (invalidateLine a s).nextPc = s.nextPc := rfl
@[simp] theorem invalidateLine_pendingLoad (a : Word) (s : State) :
    (invalidateLine a s).pendingLoad = s.pendingLoad := rfl
@[simp] theorem invalidateLine_pendingBranch (a : Word) (s : State) :
    (invalidateLine a s).pendingBranch = s.pendingBranch := rfl
@[simp] theorem invalidateLine_hiloAge (a : Word) (s : State) :
    (invalidateLine a s).hiloAge = s.hiloAge := rfl
@[simp] theorem invalidateLine_sr (a : Word) (s : State) :
    (invalidateLine a s).sr = s.sr := rfl
@[simp] theorem invalidateLine_cause (a : Word) (s : State) :
    (invalidateLine a s).cause = s.cause := rfl
@[simp] theorem invalidateLine_epc (a : Word) (s : State) :
    (invalidateLine a s).epc = s.epc := rfl
@[simp] theorem invalidateLine_badVaddr (a : Word) (s : State) :
    (invalidateLine a s).badVaddr = s.badVaddr := rfl
@[simp] theorem invalidateLine_mem (a : Word) (s : State) :
    (invalidateLine a s).mem = s.mem := rfl
@[simp] theorem invalidateLine_icacheStale (a : Word) (s : State) :
    (invalidateLine a s).icacheStale = s.icacheStale.filter fun m => markLine m != addressLine a := rfl
@[simp] theorem invalidateLine_busLog (a : Word) (s : State) :
    (invalidateLine a s).busLog = s.busLog := rfl
@[simp] theorem invalidateLine_intLines (a : Word) (s : State) :
    (invalidateLine a s).intLines = s.intLines := rfl
@[simp] theorem invalidateLine_tick (a : Word) (s : State) :
    (invalidateLine a s).tick = s.tick := rfl

/-! ### `hostReset` -/

@[simp] theorem hostReset_regs (s : State) :
    (s.hostReset).regs = Vector.replicate 32 0 := rfl
@[simp] theorem hostReset_hi (s : State) :
    (s.hostReset).hi = 0 := rfl
@[simp] theorem hostReset_lo (s : State) :
    (s.hostReset).lo = 0 := rfl
@[simp] theorem hostReset_pc (s : State) :
    (s.hostReset).pc = Config.resetPc := rfl
@[simp] theorem hostReset_nextPc (s : State) :
    (s.hostReset).nextPc = Config.resetPc + 4 := rfl
@[simp] theorem hostReset_pendingLoad (s : State) :
    (s.hostReset).pendingLoad = none := rfl
@[simp] theorem hostReset_pendingBranch (s : State) :
    (s.hostReset).pendingBranch = none := rfl
@[simp] theorem hostReset_hiloAge (s : State) :
    (s.hostReset).hiloAge = 0 := rfl
@[simp] theorem hostReset_sr (s : State) :
    (s.hostReset).sr = Config.srReset := rfl
@[simp] theorem hostReset_cause (s : State) :
    (s.hostReset).cause = 0 := rfl
@[simp] theorem hostReset_epc (s : State) :
    (s.hostReset).epc = Config.resetEpc s.tick := rfl
@[simp] theorem hostReset_badVaddr (s : State) :
    (s.hostReset).badVaddr = Config.resetBadVaddr s.tick := rfl
@[simp] theorem hostReset_mem (s : State) :
    (s.hostReset).mem = s.mem := rfl
@[simp] theorem hostReset_icacheStale (s : State) :
    (s.hostReset).icacheStale = [] := rfl
@[simp] theorem hostReset_busLog (s : State) :
    (s.hostReset).busLog = s.busLog := rfl
@[simp] theorem hostReset_intLines (s : State) :
    (s.hostReset).intLines = s.intLines := rfl
@[simp] theorem hostReset_tick (s : State) :
    (s.hostReset).tick = s.tick := rfl

end Sys2Proof.Machine
end

