-- ==== Sys2Proof/Laws/Memory.lean ====
section
/-! SUPPORT. Reading, writing and the canonical form of the memory (20_memory.md R75; log 5). -/

namespace Sys2Proof.Machine

/-- A byte at another address reads as before. -/
theorem Memory.read_write_ne (m : Memory) {a b : Nat} (v : Byte) (h : b ≠ a) : (m.write a v).read b = m.read b := by
  have hab : ¬a = b := fun e => h e.symm
  induction m with
  | nil => simp [Memory.write, Memory.read, hab]
  | cons c m ih =>
    unfold Memory.write
    split
    · simp [Memory.read, hab]
    · split
      · next hc => simp [Memory.read, hab, ← hc]
      · simp [Memory.read, ih]

/-- The byte just written reads back. -/
theorem Memory.read_write_self (m : Memory) (a : Nat) (v : Byte) : (m.write a v).read a = v := by
  induction m with
  | nil => simp [Memory.write, Memory.read]
  | cons c m ih =>
    unfold Memory.write
    split
    · simp [Memory.read]
    · split
      · simp [Memory.read]
      · next h => simp [Memory.read, ih, Ne.symm h]

/-- Read after write. -/
theorem Memory.read_write (m : Memory) (a b : Nat) (v : Byte) :
    (m.write a v).read b = if b = a then v else m.read b := by
  by_cases h : b = a
  · simp [h, Memory.read_write_self]
  · simp [h, Memory.read_write_ne m v h]

/-- A write lists no cell but its own. -/
theorem Memory.mem_write {m : Memory} {a : Nat} {v : Byte} {c : Host.Cell} (h : c ∈ m.write a v) : c = (a, v) ∨ c ∈ m := by
  induction m with
  | nil => exact .inl (List.mem_singleton.1 h)
  | cons d m ih =>
    unfold Memory.write at h
    split at h
    · exact List.mem_cons.1 h
    · split at h
      · exact (List.mem_cons.1 h).imp_right (List.mem_cons_of_mem _)
      · rcases List.mem_cons.1 h with rfl | h
        · exact .inr (by simp)
        · exact (ih h).imp_right (List.mem_cons_of_mem _)

/-- A write keeps the canonical form. -/
theorem Memory.write_wf {m : Memory} (hm : m.wf) (a : Nat) (v : Byte) : (m.write a v).wf := by
  induction m with
  | nil => simp [Memory.write]
  | cons c m ih =>
    obtain ⟨hc, hm'⟩ := List.pairwise_cons.1 hm
    unfold Memory.write
    split
    · next h =>
      refine List.pairwise_cons.2 ⟨fun d hd => ?_, hm⟩
      rcases List.mem_cons.1 hd with rfl | hd
      · exact h
      · exact Nat.lt_trans h (hc d hd)
    · split
      · next h => exact List.pairwise_cons.2 ⟨fun d hd => h ▸ hc d hd, hm'⟩
      · refine List.pairwise_cons.2 ⟨fun d hd => ?_, ih hm'⟩
        rcases Memory.mem_write hd with rfl | hd
        · show c.1 < a
          omega
        · exact hc d hd

/-- Loading keeps the canonical form. -/
theorem Memory.load_wf {m : Memory} (hm : m.wf) (a : Nat) (bs : List Byte) : (m.load a bs).wf := by
  induction bs generalizing a with
  | nil => exact hm
  | cons b bs ih => exact Memory.write_wf (ih (a + 1)) a b

/-- Loading lists no cell outside the bytes loaded. -/
theorem Memory.mem_load {m : Memory} {a : Nat} {bs : List Byte} {c : Host.Cell} (h : c ∈ m.load a bs) :
    (a ≤ c.1 ∧ c.1 < a + bs.length) ∨ c ∈ m := by
  induction bs generalizing a with
  | nil => exact .inr h
  | cons b bs ih =>
    rw [List.length_cons]
    rcases Memory.mem_write h with rfl | h
    · exact .inl ⟨Nat.le_refl _, by show a < _; omega⟩
    · rcases ih h with h | h
      · exact .inl (by omega)
      · exact .inr h

/-- What a cell holds after loading. -/
theorem Memory.read_load (m : Memory) (a : Nat) (bs : List Byte) (c : Nat) :
    (m.load a bs).read c = if a ≤ c then bs.getD (c - a) (m.read c) else m.read c := by
  induction bs generalizing a with
  | nil => simp [Memory.load]
  | cons b bs ih =>
    rw [Memory.load, Memory.read_write, ih (a + 1)]
    by_cases h : c = a
    · simp [h]
    · by_cases h' : a ≤ c
      · rw [if_neg h, if_pos (show a + 1 ≤ c by omega), if_pos h', show c - a = (c - (a + 1)) + 1 by omega, List.getD_cons_succ]
      · rw [if_neg h, if_neg (show ¬a + 1 ≤ c by omega), if_neg h']

/-- A write of any width keeps the canonical form. -/
theorem Memory.writeN_wf {m : Memory} (hm : m.wf) (a : Nat) (v : Word) (w : Width) : (m.writeN a v w).wf := by
  cases w
  · exact Memory.write_wf hm ..
  · exact Memory.write_wf (Memory.write_wf hm ..) ..
  · exact Memory.write_wf (Memory.write_wf (Memory.write_wf (Memory.write_wf hm ..) ..) ..) ..

/-- A write of a width lists no cell outside the bytes written. -/
theorem Memory.mem_writeN {m : Memory} {a : Nat} {v : Word} {w : Width} {c : Host.Cell} (h : c ∈ m.writeN a v w) :
    (a ≤ c.1 ∧ c.1 < a + w.bytes) ∨ c ∈ m := by
  cases w
  · rcases Memory.mem_write h with rfl | h
    · exact .inl ⟨Nat.le_refl _, by simp [Width.bytes]⟩
    · exact .inr h
  · rcases Memory.mem_write h with rfl | h
    · exact .inl ⟨by simp, by simp [Width.bytes]⟩
    · rcases Memory.mem_write h with rfl | h
      · exact .inl ⟨Nat.le_refl _, by simp [Width.bytes]⟩
      · exact .inr h
  · rcases Memory.mem_write h with rfl | h
    · exact .inl ⟨by simp, by simp [Width.bytes]⟩
    · rcases Memory.mem_write h with rfl | h
      · exact .inl ⟨by simp, by simp [Width.bytes]⟩
      · rcases Memory.mem_write h with rfl | h
        · exact .inl ⟨by simp, by simp [Width.bytes]⟩
        · rcases Memory.mem_write h with rfl | h
          · exact .inl ⟨Nat.le_refl _, by simp [Width.bytes]⟩
          · exact .inr h

/-- A cell outside the bytes written reads as before. -/
theorem Memory.read_writeN_outside (m : Memory) (a : Nat) (v : Word) (w : Width) {c : Nat}
    (h : c < a ∨ a + w.bytes ≤ c) : (m.writeN a v w).read c = m.read c := by
  cases w <;> simp only [Width.bytes] at h
  · exact Memory.read_write_ne _ _ (by omega)
  · simp only [Memory.writeN]
    rw [Memory.read_write_ne _ _ (by omega), Memory.read_write_ne _ _ (by omega)]
  · simp only [Memory.writeN]
    rw [Memory.read_write_ne _ _ (by omega), Memory.read_write_ne _ _ (by omega), Memory.read_write_ne _ _ (by omega),
      Memory.read_write_ne _ _ (by omega)]

/-- The bytes written read back, the lowest address holding the lowest byte. -/
theorem Memory.read_writeN (m : Memory) (a : Nat) (v : Word) (w : Width) {k : Nat} (hk : k < w.bytes) :
    (m.writeN a v w).read (a + k) = v.extractLsb' (8 * k) 8 := by
  cases w <;> simp only [Width.bytes] at hk
  · obtain rfl : k = 0 := by omega
    simp [Memory.writeN, Memory.read_write]
  · obtain rfl | rfl : k = 0 ∨ k = 1 := by omega
    all_goals simp [Memory.writeN, Memory.read_write]
  · obtain rfl | rfl | rfl | rfl : k = 0 ∨ k = 1 ∨ k = 2 ∨ k = 3 := by omega
    all_goals simp [Memory.writeN, Memory.read_write]

/-! ## Stale marks (R95) -/

/-- Adding a mark. -/
theorem mem_insertMark (k m : StaleMark) (ms : List StaleMark) : m ∈ insertMark k ms ↔ m = k ∨ m ∈ ms := by
  induction ms with
  | nil => simp [insertMark]
  | cons n ms ih =>
    unfold insertMark
    split
    · simp
    · split
      · next h => subst h; simp
      · simp only [List.mem_cons, ih]
        tauto

theorem index_injective {d e : Device} (h : d.index = e.index) : d = e := by
  cases d <;> cases e <;> first | rfl | simp [Device.index] at h

theorem markBefore_trans {k m n : StaleMark} (h : markBefore k m = true) (h' : markBefore m n = true) :
    markBefore k n = true := by
  simp only [markBefore, Bool.or_eq_true, Bool.and_eq_true, decide_eq_true_eq] at *
  omega

theorem markBefore_total {k m : StaleMark} (h : ¬markBefore k m = true) (hne : ¬k = m) : markBefore m k = true := by
  simp only [markBefore, Bool.or_eq_true, Bool.and_eq_true, decide_eq_true_eq] at *
  by_cases hi : k.1.index = m.1.index
  · have : k.2 ≠ m.2 := fun e => hne (Prod.ext (index_injective hi) e)
    omega
  · omega

/-- Adding a mark keeps the rising order. -/
theorem insertMark_rising (k : StaleMark) {ms : List StaleMark}
    (h : ms.Pairwise fun k m => markBefore k m = true) :
    (insertMark k ms).Pairwise fun k m => markBefore k m = true := by
  induction ms with
  | nil => simp [insertMark]
  | cons n ms ih =>
    obtain ⟨hn, hms⟩ := List.pairwise_cons.1 h
    unfold insertMark
    split
    · next hk =>
      refine List.pairwise_cons.2 ⟨fun m hm => ?_, h⟩
      rcases List.mem_cons.1 hm with rfl | hm
      · exact hk
      · exact markBefore_trans hk (hn m hm)
    · split
      · exact h
      · next hk hne =>
        refine List.pairwise_cons.2 ⟨fun m hm => ?_, ih hms⟩
        rcases (mem_insertMark k m ms).1 hm with rfl | hm
        · exact markBefore_total hk hne
        · exact hn m hm

end Sys2Proof.Machine
end

