-- ==== Sys2Proof/Laws/Registers.lean ====
section
/-! SUPPORT. What the register operations and the commit of a step can do (10_state.md R21, 40_step_cycle.md R139 to R145). -/

namespace Sys2Proof.Machine

open Sys2Proof.Safety

@[simp] theorem getReg_zero (regs : Vector Word 32) : getReg regs 0#5 = 0#32 := rfl

/-- Read after write, with register 0 hard-wired. -/
theorem getReg_setReg (regs : Vector Word 32) (d r : RegNum) (v : Word) :
    getReg (setReg regs d v) r = if r = 0#5 then 0 else if r = d then v else getReg regs r := by
  unfold getReg setReg
  by_cases hr : r = 0#5
  · simp [hr]
  · by_cases hd : d = 0#5
    · have : r ≠ d := by rw [hd]; exact hr
      simp [hr, hd]
    · by_cases h : r = d
      · subst h; simp [hr]
      · have : d.toNat ≠ r.toNat := fun e => h (BitVec.eq_of_toNat_eq e.symm)
        simp [hr, hd, h, this]

/-- A write never touches the storage of register 0. -/
theorem setReg_storage_zero (regs : Vector Word 32) (d : RegNum) (v : Word) : (setReg regs d v)[0] = regs[0] := by
  unfold setReg
  split
  · rfl
  · next h =>
    have : d.toNat ≠ 0 := fun e => h (BitVec.eq_of_toNat_eq (by simpa using e))
    simp [this]

/-- A staged write or load targets a register. -/
theorem targets_iff (e : Staged) (r : RegNum) :
    e.targets r = true ↔ (∃ v, e.write = some (r, v)) ∨ (e.load.map PendingLoad.reg = some r) := by
  unfold Staged.targets
  rcases e.write with _ | ⟨d, v⟩ <;> rcases e.load with _ | l <;> simp

/-- What every register reads after the commit of a completed step. -/
theorem commit_readReg (e : Staged) (s : State) (r : RegNum) :
    (commit e s).readReg r = regAfter s e.write (e.load.map PendingLoad.reg) r := by
  have carried : ∀ r, getReg (carriedRegs s e) r =
      if r = 0#5 then 0 else if e.targets r then s.readReg r else regAfter s none (e.load.map PendingLoad.reg) r := by
    intro r
    unfold carriedRegs regAfter regAfter.unwritten State.readReg
    rcases hl : s.pendingLoad with _ | l
    · by_cases hr : r = 0#5 <;> simp [hr, getReg]
    · by_cases hr : r = 0#5
      · by_cases ht : e.targets l.reg <;> simp [hr, ht]
      · by_cases ht : e.targets l.reg
        · by_cases hrl : r = l.reg
          · subst hrl; simp [hr, ht]
          · simp [hr, hrl, ht]
        · by_cases hrl : r = l.reg
          · have hnt : e.load.map PendingLoad.reg ≠ some l.reg := fun h => ht ((targets_iff e l.reg).2 (.inr h))
            subst hrl
            simp only [ht, Bool.false_eq_true, if_false, hr, getReg_setReg]
            simp [hnt]
          · simp [hr, hrl, ht, getReg_setReg]
  show getReg (committedRegs s e) r = _
  unfold committedRegs
  rcases hw : e.write with _ | ⟨d, v⟩
  · simp only [carried]
    by_cases hr : r = 0#5
    · simp [hr, regAfter]
    · by_cases ht : e.targets r
      · have hload : e.load.map PendingLoad.reg = some r := by
          rcases (targets_iff e r).1 ht with ⟨v, h⟩ | h
          · simp [hw] at h
          · exact h
        simp only [hr, ht, if_true, if_false, regAfter, regAfter.unwritten, hload]
        rcases s.pendingLoad with _ | l <;> simp
      · simp [hr, ht]
  · simp only [getReg_setReg, carried]
    by_cases hr : r = 0#5
    · simp [hr, regAfter]
    · by_cases hd : r = d
      · simp [hd, regAfter]
      · by_cases ht : e.targets r
        · have hload : e.load.map PendingLoad.reg = some r := by
            rcases (targets_iff e r).1 ht with ⟨v', h⟩ | h
            · rw [hw] at h; exact absurd (by injection h with h; exact (congrArg Prod.fst h).symm) hd
            · exact h
          simp only [hr, hd, ht, if_true, if_false, regAfter, regAfter.unwritten, hload]
          rcases s.pendingLoad with _ | l <;> simp
        · simp [hr, hd, ht, regAfter]

/-- What every register reads after an exception is taken: only the carried-in load is written (R145). -/
theorem takeException_readReg (e : Exc) (s : State) (r : RegNum) :
    (takeException e s).readReg r = regAfter s none none r := by
  show getReg (exceptionRegs s) r = _
  unfold exceptionRegs regAfter regAfter.unwritten State.readReg
  rcases s.pendingLoad with _ | l
  · by_cases hr : r = 0#5 <;> simp [hr]
  · simp only [getReg_setReg]
    by_cases hr : r = 0#5 <;> simp [hr]

/-- The next fetch address in the terms of the claims. -/
theorem nextFetch_eq (s : State) : nextFetch s = fetchAfter s := by
  unfold nextFetch fetchAfter
  rcases s.pendingBranch with _ | ⟨taken, target, origin⟩
  · rfl
  · cases taken <;> rfl

/-- A commit is a completed step. -/
theorem commit_completed (e : Staged) (s : State) : Completed s (commit e s) e.write e.load e.branch where
  regs r := commit_readReg e s r
  load := rfl
  branch := rfl
  pc := nextFetch_eq s
  nextPc := congrArg (· + 4) (nextFetch_eq s)

/-- The storage of register 0 is the same after a commit. -/
theorem commit_storage_zero (e : Staged) (s : State) : (commit e s).regs[0] = s.regs[0] := by
  show (committedRegs s e)[0] = _
  have carried : (carriedRegs s e)[0] = s.regs[0] := by
    unfold carriedRegs
    split
    · split
      · rfl
      · exact setReg_storage_zero ..
    · rfl
  unfold committedRegs
  split
  · rw [setReg_storage_zero, carried]
  · exact carried

/-- The storage of register 0 is the same after an exception. -/
theorem takeException_storage_zero (e : Exc) (s : State) : (takeException e s).regs[0] = s.regs[0] := by
  show (exceptionRegs s)[0] = _
  unfold exceptionRegs
  split
  · exact setReg_storage_zero ..
  · rfl

end Sys2Proof.Machine
end

