-- ==== Sys2Proof/Laws/Status.lean ====
section
/-! SUPPORT. The fields of SR and Cause after the privilege-stack operations, exception entry and input sampling
(60_exceptions.md R332, R333, 45_system_cop.md R294, 10_state.md R44). -/

namespace Sys2Proof.Machine

/-- Bit `i` of SR after exception entry. -/
theorem pushStack_bit (sr : Word) (i : Nat) :
    (pushStack sr).getLsbD i = if i < 2 then false else if i < 6 then sr.getLsbD (i - 2) else sr.getLsbD i := by
  unfold pushStack
  by_cases hi : i < 32
  · interval_cases i <;> simp
  · have : 32 ≤ i := by omega
    have h2 : ¬i < 2 := by omega
    have h6 : ¬i < 6 := by omega
    simp [h2, h6, BitVec.getLsbD_of_ge, this]

/-- Bit `i` of SR after RFE. -/
theorem popStack_bit (sr : Word) (i : Nat) :
    (popStack sr).getLsbD i = if i < 4 then sr.getLsbD (i + 2) else sr.getLsbD i := by
  unfold popStack
  by_cases hi : i < 32
  · interval_cases i <;> simp
  · have : 32 ≤ i := by omega
    have h4 : ¬i < 4 := by omega
    simp [h4, BitVec.getLsbD_of_ge, this]

/-- Bit `i` of Cause after exception entry. -/
theorem causeAtEntry_bit (bd : Bool) (ce : BitVec 2) (code : BitVec 5) (old : Word) (i : Nat) :
    (causeAtEntry bd ce code old).getLsbD i =
      if i < 2 then false else if i < 7 then code.getLsbD (i - 2) else if i < 8 then false
      else if i < 16 then old.getLsbD i else if i < 28 then false else if i < 30 then ce.getLsbD (i - 28)
      else if i < 31 then false else if i < 32 then bd else false := by
  show BitVec.getLsbD (BitVec.ofBool bd ++ 0#1 ++ ce ++ 0#12 ++ old.extractLsb' 8 8 ++ 0#1 ++ code ++ 0#2) i = _
  simp only [BitVec.getLsbD_append, BitVec.getLsbD_extractLsb', BitVec.getLsbD_zero, BitVec.getLsbD_ofBool]
  by_cases hi : i < 32
  · interval_cases i <;> simp
  · cases bd <;> grind

/-- Bit `i` of Cause after the lines are sampled. -/
theorem causeWithLines_bit (cause : Word) (lines : BitVec 6) (i : Nat) :
    (causeWithLines cause lines).getLsbD i = if 10 ≤ i ∧ i < 16 then lines.getLsbD (i - 10) else cause.getLsbD i := by
  unfold causeWithLines
  by_cases hi : i < 32
  · interval_cases i <;> simp
  · have : 32 ≤ i := by omega
    have hs : ¬i < 16 := by omega
    simp [hs, BitVec.getLsbD_of_ge, this]

theorem causeAtEntry_code (bd : Bool) (ce : BitVec 2) (code : BitVec 5) (old : Word) :
    (causeAtEntry bd ce code old).extractLsb' 2 5 = code := by
  ext i hi
  simp only [BitVec.getElem_extractLsb', causeAtEntry_bit]
  grind

theorem causeAtEntry_ip (bd : Bool) (ce : BitVec 2) (code : BitVec 5) (old : Word) :
    (causeAtEntry bd ce code old).extractLsb' 8 8 = old.extractLsb' 8 8 := by
  ext i hi
  simp only [BitVec.getElem_extractLsb', causeAtEntry_bit]
  have h : ¬8 + i < 2 ∧ ¬8 + i < 7 ∧ ¬8 + i < 8 ∧ 8 + i < 16 := by omega
  simp [h]

theorem causeAtEntry_ce (bd : Bool) (ce : BitVec 2) (code : BitVec 5) (old : Word) :
    (causeAtEntry bd ce code old).extractLsb' 28 2 = ce := by
  ext i hi
  simp only [BitVec.getElem_extractLsb', causeAtEntry_bit]
  grind

theorem causeAtEntry_bd (bd : Bool) (ce : BitVec 2) (code : BitVec 5) (old : Word) :
    (causeAtEntry bd ce code old).getLsbD 31 = bd := by
  rw [causeAtEntry_bit]
  rfl

/-- The bits of Cause that are never written (R43). -/
theorem causeAtEntry_rest (bd : Bool) (ce : BitVec 2) (code : BitVec 5) (old : Word) :
    causeAtEntry bd ce code old &&& 0x4FFF0083 = 0 := by
  apply BitVec.eq_of_getLsbD_eq
  intro i hi
  rw [BitVec.getLsbD_and, causeAtEntry_bit]
  interval_cases i <;> simp

/-- Sampling the lines keeps every bit that a mask without bits 15:10 selects. -/
theorem causeWithLines_rest (cause : Word) (lines : BitVec 6) :
    causeWithLines cause lines &&& 0x4FFF0083 = cause &&& 0x4FFF0083 := by
  apply BitVec.eq_of_getLsbD_eq
  intro i hi
  rw [BitVec.getLsbD_and, BitVec.getLsbD_and, causeWithLines_bit]
  interval_cases i <;> simp

theorem causeWithLines_code (cause : Word) (lines : BitVec 6) :
    (causeWithLines cause lines).extractLsb' 2 5 = cause.extractLsb' 2 5 := by
  ext i hi
  simp only [BitVec.getElem_extractLsb', causeWithLines_bit]
  have : ¬10 ≤ 2 + i := by omega
  simp [this]

end Sys2Proof.Machine
end

