-- ==== Sys2Proof/Laws/Access.lean ====
section
/-! SUPPORT. What each access primitive and each instruction can do, said once (20_memory.md R78, R79, 44_load_store.md R254). -/

namespace Sys2Proof.Machine

open Sys2Proof.Safety

/-- An operation that ends in a next state gave a value or raised an exception. -/
theorem Res.settle_next {α : Type} {s t : State} {k : α → StepOutcome} {r : Res α} (h : r.settle s k = .next t) :
    (∃ a, r = .ok a ∧ k a = .next t) ∨ (∃ e, r = .exc e ∧ t = takeException e s) := by
  cases r with
  | ok a => exact .inl ⟨a, rfl, h⟩
  | exc e => exact .inr ⟨e, rfl, by simpa [Res.settle] using h.symm⟩
  | fault f => simp [Res.settle] at h
  | refuse r => simp [Res.settle] at h

/-- A device read that is answered. -/
theorem deviceRead_some {s u : State} {g : Target} {w : Width} {v : Word} (h : deviceRead s g w = some (v, u)) :
    (g.device.isMemory = true ∧ v = s.mem.readN g.cell w ∧ u = s) ∨
    (g.device.isMemory = false ∧ ∃ x, Config.deviceAnswer s.tick s.busLog (.read g.device g.offset w) = some x
      ∧ v = cutTo w x ∧ u = logBus (.read g.device g.offset w) s) := by
  unfold deviceRead at h
  split at h
  · next hm => simp at h; exact .inl ⟨hm, h.1.symm, h.2.symm⟩
  · next hm =>
    split at h
    · next x hx => simp at h; exact .inr ⟨by simpa using hm, x, hx, h.1.symm, h.2.symm⟩
    · simp at h

/-- A device write that is answered. -/
theorem deviceWrite_some {s u : State} {g : Target} {w : Width} {v : Word} (h : deviceWrite s g w v = some u) :
    (g.device.isWritable = true ∧ u = setMem (s.mem.writeN g.cell v w) s) ∨
    (g.device.isMemory = false ∧ u = logBus (.write g.device g.offset w (cutTo w v)) s) := by
  unfold deviceWrite at h
  split at h
  · next hw => simp at h; exact .inl ⟨hw, h.symm⟩
  · split at h
    · simp at h
    · next hm =>
      split at h
      · simp at h; exact .inr ⟨by simpa using hm, h.symm⟩
      · simp at h

/-- A load that gives a value passed every check and was answered. -/
theorem memRead_ok {s u : State} {bad a : Word} {w : Width} {v : Word} (h : memRead s bad a w = .ok (v, u)) :
    ∃ g, route a = some g ∧ deviceRead s g w = some (v, u) := by
  unfold memRead at h
  repeat' split at h
  all_goals first | (simp at h; done) | skip
  next g hg _ _ r hr => exact ⟨g, hg, by simpa [hr] using h⟩

/-- A store that is performed: discarded by cache isolation, or answered by its device. -/
theorem memWrite_ok {s u : State} {a : Word} {w : Width} {v : Word} (h : memWrite s a w v = .ok u) :
    (s.isolated = true ∧ u = invalidateLine a s) ∨
    (misaligned w a = false ∧ ∃ g u', route a = some g ∧ deviceWrite s g w v = some u' ∧ u = noteStore g u') := by
  unfold memWrite at h
  split at h
  · simp at h
  · next hal =>
    repeat' split at h
    all_goals first | (simp at h; done) | skip
    · next hi => exact .inl ⟨hi, by simpa using h.symm⟩
    · next g hg _ _ u' hu => exact .inr ⟨by simpa using hal, g, u', hg, hu, by simpa using h.symm⟩

/-- A merging store that is performed. -/
theorem memMerge_ok {s u : State} {a : Word} {f : Word → Word} (h : memMerge s a f = .ok u) :
    (s.isolated = true ∧ u = invalidateLine a s) ∨
    (∃ g u', route (wordAddress a) = some g ∧ g.device.isMemory = true
      ∧ deviceWrite s g .word (f (s.mem.readN g.cell .word)) = some u' ∧ u = noteStore g u') := by
  unfold memMerge at h
  repeat' split at h
  all_goals first | (simp at h; done) | skip
  · next hi => exact .inl ⟨hi, by simpa using h.symm⟩
  · rename_i hg _ hm _ u' hu
    exact .inr ⟨_, u', hg, by simpa using hm, hu, by simpa using h.symm⟩

/-- A fetch that gives a word: the address is word-aligned and its device answered. -/
theorem fetch_ok {s u : State} {w : Word} (h : fetch s = .ok (w, u)) :
    misaligned .word s.pc = false ∧ ∃ g, route s.pc = some g ∧ deviceRead s g .word = some (w, u) := by
  unfold fetch at h
  split at h
  · simp at h
  · next hal =>
    repeat' split at h
    all_goals first | (simp at h; done) | skip
    rename_i hg _ _ _ r hr
    exact ⟨by simpa using hal, _, hg, by simpa [hr] using h⟩

/-- What the access of instruction `i` leaves, before its commit. -/
inductive Access (i : Instr) (s : State) : State → Prop
  /-- No access, or a read of a memory device. -/
  | none : Access i s s
  /-- A read of an external device. -/
  | busRead (op : BusOp) : isLoad i = true → Access i s (logBus op s)
  /-- A store discarded by cache isolation. -/
  | discarded (a : Word) : isStore i = true → s.isolated = true → Access i s (invalidateLine a s)
  /-- A store to RAM or SCRATCH at an aligned address. -/
  | stored (a : Word) (w : Width) (v : Word) (g : Target) : isStore i = true → misaligned w a = false → route a = some g →
      g.device.isWritable = true → Access i s (noteStore g (setMem (s.mem.writeN g.cell v w) s))
  /-- A store to an external device. -/
  | busWrite (op : BusOp) (g : Target) : isStore i = true → g.device.isMemory = false →
      Access i s (noteStore g (logBus op s))

theorem deviceRead_access {i : Instr} {s u : State} {g : Target} {w : Width} {v : Word} (hi : isLoad i = true)
    (h : deviceRead s g w = some (v, u)) : Access i s u := by
  rcases deviceRead_some h with ⟨-, -, rfl⟩ | ⟨-, _, -, -, rfl⟩
  · exact .none
  · exact .busRead _ hi

theorem memWrite_access {i : Instr} {s u : State} {a : Word} {w : Width} {v : Word} (hs : isStore i = true)
    (h : memWrite s a w v = .ok u) : Access i s u := by
  rcases memWrite_ok h with ⟨hi, rfl⟩ | ⟨hal, g, u', hg, hu, rfl⟩
  · exact .discarded _ hs hi
  · rcases deviceWrite_some hu with ⟨hw, rfl⟩ | ⟨hm, rfl⟩
    · exact .stored a w v g hs hal hg hw
    · exact .busWrite _ g hs hm

/-- The aligned word's address is aligned. -/
theorem misaligned_wordAddress (a : Word) : misaligned .word (wordAddress a) = false := by
  have : (wordAddress a).extractLsb' 0 2 = 0#2 := by
    apply BitVec.eq_of_getLsbD_eq
    intro i hi
    have h2 : i = 0 ∨ i = 1 := by omega
    rcases h2 with rfl | rfl <;> simp [wordAddress]
  simp [misaligned, this]

theorem memMerge_access {i : Instr} {s u : State} {a : Word} {f : Word → Word} (hs : isStore i = true)
    (h : memMerge s a f = .ok u) : Access i s u := by
  rcases memMerge_ok h with ⟨hi, rfl⟩ | ⟨g, u', hg, hmem, hu, rfl⟩
  · exact .discarded _ hs hi
  · rcases deviceWrite_some hu with ⟨hw, rfl⟩ | ⟨hm, rfl⟩
    · exact .stored _ .word _ g hs (misaligned_wordAddress a) hg hw
    · exact .busWrite _ g hs hm

/-- What instruction `i` may stage: its own destinations, a pending branch from its own address, and the writes to HI, LO, SR and
Cause that its rule gives it. -/
structure Staged.lawful (e : Staged) (i : Instr) (s : State) : Prop where
  write : ∀ r v, e.write = some (r, v) → writeDest i = some r
  load : ∀ l, e.load = some l → loadDest i = some l.reg
  branch : e.branch.isSome = isBranch i
  origin : ∀ b, e.branch = some b → b.origin = s.pc
  hiLo : e.hi ≠ none ∨ e.lo ≠ none → writesHiLo i = true
  sr : ∀ v, e.sr = some v → (∃ rt, i = .mtc0 rt 12#5 ∧ v = s.readReg rt) ∨ (i = .rfe ∧ v = popStack s.sr)
  cause : ∀ c, e.cause = some c → ∃ rt, i = .mtc0 rt 13#5 ∧
    c = (s.cause &&& 0xFFFFFCFF#32) ||| (s.readReg rt &&& 0x00000300#32)
  moves : e.movesHiLo = readsHiLo i

/-- The exceptions that an instruction itself can take. -/
def Exc.ofInstruction : Exc → Prop
  | .int | .ibe | .ri => False
  | .adEL _ | .adES _ | .dbe | .sys | .bp | .cpU _ | .ov => True

/-- Taken an exception, or made its access and committed what it staged. -/
def Ends (i : Instr) (s t : State) : Prop :=
  (∃ e : Exc, e.ofInstruction ∧ t = takeException e s) ∨ (∃ e u, Access i s u ∧ e.lawful i s ∧ t = commit e u)

theorem raise_ends {i : Instr} {e : Exc} {s t : State} (he : e.ofInstruction) (h : raise e s = .next t) : Ends i s t :=
  .inl ⟨e, he, by simpa [raise] using h.symm⟩

theorem complete_ends {i : Instr} {e : Staged} {s t : State} (he : e.lawful i s) (h : complete e s = .next t) : Ends i s t :=
  .inr ⟨e, s, .none, he, by simpa [complete] using h.symm⟩

/-- A normal write is lawful for its destination. -/
theorem write_lawful {i : Instr} {s : State} {r : RegNum} {v : Word} {m : Bool} (hw : writeDest i = some r)
    (hm : readsHiLo i = m) (hb : isBranch i = false) : ({ write := some (r, v), movesHiLo := m } : Staged).lawful i s where
  write _ _ h := by simp at h; rw [hw, h.1]
  load _ h := by simp at h
  branch := hb.symm
  origin _ h := by simp at h
  hiLo h := by simp at h
  sr _ h := by simp at h
  cause _ h := by simp at h
  moves := hm.symm

/-- A branch, with or without a link, is lawful. -/
theorem branch_lawful {i : Instr} {s : State} {w : Option (RegNum × Word)} {c : Bool} {t : Word}
    (hw : ∀ r v, w = some (r, v) → writeDest i = some r) (hm : readsHiLo i = false) (hb : isBranch i = true) :
    ({ write := w, branch := some (branchIf s c t) } : Staged).lawful i s where
  write := hw
  load _ h := by simp at h
  branch := hb.symm
  origin b h := by simp at h; rw [← h]; rfl
  hiLo h := by simp at h
  sr _ h := by simp at h
  cause _ h := by simp at h
  moves := hm.symm

/-- A pending load is lawful for its destination. -/
theorem load_lawful {i : Instr} {s : State} {r : RegNum} {v : Word} (hl : loadDest i = some r) (hm : readsHiLo i = false) (hb : isBranch i = false) :
    ({ load := some ⟨r, v⟩ } : Staged).lawful i s where
  write _ _ h := by simp at h
  load _ h := by simp at h; rw [hl, ← h]
  branch := hb.symm
  origin _ h := by simp at h
  hiLo h := by simp at h
  sr _ h := by simp at h
  cause _ h := by simp at h
  moves := hm.symm

/-- A write of HI, LO or both is lawful for the instructions that write them. -/
theorem hiLo_lawful {i : Instr} {s : State} {hi lo : Option Word} (hw : writesHiLo i = true) (hm : readsHiLo i = false) (hb : isBranch i = false) :
    ({ hi := hi, lo := lo } : Staged).lawful i s where
  write _ _ h := by simp at h
  load _ h := by simp at h
  branch := hb.symm
  origin _ h := by simp at h
  hiLo _ := hw
  sr _ h := by simp at h
  cause _ h := by simp at h
  moves := hm.symm

/-- Staging nothing is lawful. -/
theorem nothing_lawful {i : Instr} {s : State} (hm : readsHiLo i = false) (hb : isBranch i = false) : ({} : Staged).lawful i s where
  write _ _ h := by simp at h
  load _ h := by simp at h
  branch := hb.symm
  origin _ h := by simp at h
  hiLo h := by simp at h
  sr _ h := by simp at h
  cause _ h := by simp at h
  moves := hm.symm

/-- Every exception of a data access is an instruction's. -/
theorem memRead_exc {s : State} {bad a : Word} {w : Width} {e : Exc} (h : memRead s bad a w = .exc e) : e.ofInstruction := by
  unfold memRead at h
  repeat' split at h
  all_goals first | (simp at h; done) | (simp at h; rw [← h]; trivial)

theorem memWrite_exc {s : State} {a : Word} {w : Width} {v : Word} {e : Exc} (h : memWrite s a w v = .exc e) :
    e.ofInstruction := by
  unfold memWrite at h
  repeat' split at h
  all_goals first | (simp at h; done) | (simp at h; rw [← h]; trivial)

theorem memMerge_exc {s : State} {a : Word} {f : Word → Word} {e : Exc} (h : memMerge s a f = .exc e) : e.ofInstruction := by
  unfold memMerge at h
  repeat' split at h
  all_goals first | (simp at h; done) | (simp at h; rw [← h]; trivial)

theorem completeWrite_ends {i : Instr} {r : RegNum} {v : Word} {s t : State} (hw : writeDest i = some r)
    (hm : readsHiLo i = false) (hb : isBranch i = false) (h : completeWrite r v s = .next t) : Ends i s t :=
  complete_ends (write_lawful hw hm hb) h

theorem loadInto_ends {i : Instr} {s t : State} {rt : RegNum} {bad a : Word} {w : Width} {f : Word → Word}
    (hi : isLoad i = true) (hl : loadDest i = some rt) (hm : readsHiLo i = false) (hb : isBranch i = false)
    (h : loadInto s rt bad a w f = .next t) : Ends i s t := by
  rcases Res.settle_next h with ⟨⟨v, u⟩, hr, hk⟩ | ⟨e, he, rfl⟩
  · obtain ⟨g, -, hd⟩ := memRead_ok hr
    exact .inr ⟨{ load := some ⟨rt, f v⟩ }, u, deviceRead_access hi hd, load_lawful hl hm hb, by simpa [complete] using hk.symm⟩
  · exact .inl ⟨e, memRead_exc he, rfl⟩

theorem storeTo_ends {i : Instr} {s t : State} {r : Res State} (hm : readsHiLo i = false) (hb : isBranch i = false)
    (hr : ∀ u, r = .ok u → Access i s u) (hx : ∀ e, r = .exc e → e.ofInstruction) (h : storeTo s r = .next t) :
    Ends i s t := by
  rcases Res.settle_next h with ⟨u, hu, hk⟩ | ⟨e, he, rfl⟩
  · exact .inr ⟨{}, u, hr u hu, nothing_lawful hm hb, by simpa [complete] using hk.symm⟩
  · exact .inl ⟨e, hx e he, rfl⟩

theorem whenUsable_ends {i : Instr} {z : BitVec 2} {s t : State} {k : StepOutcome} (hk : k = .next t → Ends i s t)
    (h : whenUsable z s k = .next t) : Ends i s t := by
  unfold whenUsable at h
  split at h
  · exact hk h
  · exact raise_ends (by exact trivial) h

theorem refuseCop_ends {i : Instr} {z : BitVec 2} {r : Refusal} {s t : State} (h : refuseCop z r s = .next t) :
    Ends i s t :=
  whenUsable_ends (fun h => by simp at h) h

theorem writeHiLo_ends {i : Instr} {e : Staged} {s t : State} (he : e.lawful i s) (h : writeHiLo e s = .next t) :
    Ends i s t := by
  unfold writeHiLo at h
  split at h
  · simp at h
  · exact complete_ends he h

theorem completeOrOverflow_ends {i : Instr} {o : Bool} {r : RegNum} {v : Word} {s t : State} (hw : writeDest i = some r)
    (hm : readsHiLo i = false) (hb : isBranch i = false) (h : completeOrOverflow o r v s = .next t) : Ends i s t := by
  unfold completeOrOverflow at h
  split at h
  · exact raise_ends (by exact trivial) h
  · exact completeWrite_ends hw hm hb h

theorem completeBranch_ends {i : Instr} {c : Bool} {imm : BitVec 16} {s t : State} (hm : readsHiLo i = false) (hb : isBranch i = true)
    (h : completeBranch c imm s = .next t) : Ends i s t :=
  complete_ends (branch_lawful (by simp) hm hb) h

theorem completeJumpLink_ends {i : Instr} {r : RegNum} {v : Word} {s t : State} (hw : writeDest i = some r)
    (hm : readsHiLo i = false) (hb : isBranch i = true) (h : completeJumpLink r v s = .next t) : Ends i s t :=
  complete_ends (branch_lawful (by simp [hw]) hm hb) h

theorem completeBranchLink_ends {i : Instr} {rs : RegNum} {c : Bool} {imm : BitVec 16} {s t : State}
    (hw : writeDest i = some 31#5) (hm : readsHiLo i = false) (hb : isBranch i = true) (h : completeBranchLink rs c imm s = .next t) :
    Ends i s t := by
  unfold completeBranchLink at h
  split at h
  · simp at h
  · exact complete_ends (branch_lawful (by simp [hw]) hm hb) h

/-- Every instruction that ends in a next state took one of its exceptions, or made its access and committed what its rule lets
it stage. -/
theorem exec_ends {i : Instr} {s t : State} (h : exec i s = .next t) : Ends i s t := by
  cases i with
  | sll | srl | sra | sllv | srlv | srav | addu | subu | and | or | xor | nor | slt | sltu | addiu | slti | sltiu | andi
  | ori | xori | lui => exact completeWrite_ends rfl rfl rfl h
  | add | sub | addi => exact completeOrOverflow_ends rfl rfl rfl h
  | mult | multu | div | divu | mthi | mtlo => exact writeHiLo_ends (hiLo_lawful rfl rfl rfl) h
  | mfhi | mflo => exact complete_ends (write_lawful rfl rfl rfl) h
  | j | jr => exact complete_ends (branch_lawful (by simp) rfl rfl) h
  | jal => exact completeJumpLink_ends rfl rfl rfl h
  | jalr rd rs =>
    simp only [exec, execJalr] at h
    split at h
    · simp at h
    · exact completeJumpLink_ends rfl rfl rfl h
  | beq | bne | blez | bgtz | bltz | bgez => exact completeBranch_ends rfl rfl h
  | bltzal | bgezal => exact completeBranchLink_ends rfl rfl rfl h
  | lb | lbu | lh | lhu | lwl | lwr => exact loadInto_ends rfl rfl rfl rfl h
  | lw rt imm rs => exact loadInto_ends (f := fun v => v) rfl rfl rfl rfl h
  | sb | sh | sw => exact storeTo_ends rfl rfl (fun _ => memWrite_access rfl) (fun _ => memWrite_exc) h
  | swl | swr => exact storeTo_ends rfl rfl (fun _ => memMerge_access rfl) (fun _ => memMerge_exc) h
  | syscall | brk => exact raise_ends (by exact trivial) h
  | mfc0 rt rd =>
    refine whenUsable_ends (fun h => ?_) h
    split at h
    · exact complete_ends (load_lawful rfl rfl rfl) h
    · simp at h
  | mtc0 rt rd =>
    refine whenUsable_ends (fun h => ?_) h
    split at h
    · next e he =>
      refine complete_ends ?_ h
      unfold stageCop0 at he
      split at he
      · next hd =>
        obtain rfl := Option.some.inj he
        exact { nothing_lawful (i := .mtc0 rt rd) rfl rfl with sr := fun v hv => .inl ⟨rt, by rw [hd], by simpa using hv.symm⟩ }
      · split at he
        · next hd =>
          obtain rfl := Option.some.inj he
          exact { nothing_lawful (i := .mtc0 rt rd) rfl rfl with cause := fun v hv => ⟨rt, by rw [hd], by simpa using hv.symm⟩ }
        · split at he
          · simp at he
          · obtain rfl := Option.some.inj he
            exact nothing_lawful rfl rfl
    · simp at h
  | rfe =>
    refine whenUsable_ends (fun h => complete_ends ?_ h) h
    exact { nothing_lawful (i := .rfe) rfl rfl with sr := fun v hv => .inr ⟨rfl, by simpa using hv.symm⟩ }
  | cop1 | cop2 | cop3 | lwc1 | lwc2 | lwc3 | swc1 | swc2 | swc3 => exact refuseCop_ends h
  | lwc0 | swc0 => exact absurd h (by simp [exec, execLwc0, execSwc0])

end Sys2Proof.Machine
end

