-- ==== Sys2Proof/Laws/Encoding.lean ====
section
/-! SUPPORT. The fields of an encoded word: one lemma per format and field (30_encoding.md R101 to R105). -/

namespace Sys2Proof

open BitVec

/-- Bit `i` of a word of this format. -/
theorem getLsbD_rType (rs rt rd : RegNum) (shamt : BitVec 5) (funct : BitVec 6) (i : Nat) :
    (rType rs rt rd shamt funct).getLsbD i =
      if i < 6 then funct.getLsbD i else if i < 11 then shamt.getLsbD (i - 6) else if i < 16 then rd.getLsbD (i - 11)
      else if i < 21 then rt.getLsbD (i - 16) else if i < 26 then rs.getLsbD (i - 21) else false := by
  show BitVec.getLsbD (0#6 ++ rs ++ rt ++ rd ++ shamt ++ funct) i = _
  simp only [getLsbD_append, getLsbD_zero]
  grind

@[simp] theorem opField_rType (rs rt rd : RegNum) (shamt : BitVec 5) (funct : BitVec 6) : opField (rType rs rt rd shamt funct) = 0#6 := by
  unfold opField
  ext i hi
  simp only [getElem_extractLsb', getLsbD_rType]
  grind

@[simp] theorem rsField_rType (rs rt rd : RegNum) (shamt : BitVec 5) (funct : BitVec 6) : rsField (rType rs rt rd shamt funct) = rs := by
  unfold rsField
  ext i hi
  simp only [getElem_extractLsb', getLsbD_rType]
  grind

@[simp] theorem rtField_rType (rs rt rd : RegNum) (shamt : BitVec 5) (funct : BitVec 6) : rtField (rType rs rt rd shamt funct) = rt := by
  unfold rtField
  ext i hi
  simp only [getElem_extractLsb', getLsbD_rType]
  grind

@[simp] theorem rdField_rType (rs rt rd : RegNum) (shamt : BitVec 5) (funct : BitVec 6) : rdField (rType rs rt rd shamt funct) = rd := by
  unfold rdField
  ext i hi
  simp only [getElem_extractLsb', getLsbD_rType]
  grind

@[simp] theorem shamtField_rType (rs rt rd : RegNum) (shamt : BitVec 5) (funct : BitVec 6) : shamtField (rType rs rt rd shamt funct) = shamt := by
  unfold shamtField
  ext i hi
  simp only [getElem_extractLsb', getLsbD_rType]
  grind

@[simp] theorem functField_rType (rs rt rd : RegNum) (shamt : BitVec 5) (funct : BitVec 6) : functField (rType rs rt rd shamt funct) = funct := by
  unfold functField
  ext i hi
  simp only [getElem_extractLsb', getLsbD_rType]
  grind

/-- Bit `i` of a word of this format. -/
theorem getLsbD_codeType (code : BitVec 20) (funct : BitVec 6) (i : Nat) :
    (codeType code funct).getLsbD i =
      if i < 6 then funct.getLsbD i else if i < 26 then code.getLsbD (i - 6) else false := by
  show BitVec.getLsbD (0#6 ++ code ++ funct) i = _
  simp only [getLsbD_append, getLsbD_zero]
  grind

@[simp] theorem opField_codeType (code : BitVec 20) (funct : BitVec 6) : opField (codeType code funct) = 0#6 := by
  unfold opField
  ext i hi
  simp only [getElem_extractLsb', getLsbD_codeType]
  grind

@[simp] theorem codeField_codeType (code : BitVec 20) (funct : BitVec 6) : codeField (codeType code funct) = code := by
  unfold codeField
  ext i hi
  simp only [getElem_extractLsb', getLsbD_codeType]
  grind

@[simp] theorem functField_codeType (code : BitVec 20) (funct : BitVec 6) : functField (codeType code funct) = funct := by
  unfold functField
  ext i hi
  simp only [getElem_extractLsb', getLsbD_codeType]
  grind

/-- Bit `i` of a word of this format. -/
theorem getLsbD_iType (op : BitVec 6) (rs rt : RegNum) (imm : BitVec 16) (i : Nat) :
    (iType op rs rt imm).getLsbD i =
      if i < 16 then imm.getLsbD i else if i < 21 then rt.getLsbD (i - 16) else if i < 26 then rs.getLsbD (i - 21)
      else op.getLsbD (i - 26) := by
  show BitVec.getLsbD (op ++ rs ++ rt ++ imm) i = _
  simp only [getLsbD_append]
  grind

@[simp] theorem opField_iType (op : BitVec 6) (rs rt : RegNum) (imm : BitVec 16) : opField (iType op rs rt imm) = op := by
  unfold opField
  ext i hi
  simp only [getElem_extractLsb', getLsbD_iType]
  grind

@[simp] theorem rsField_iType (op : BitVec 6) (rs rt : RegNum) (imm : BitVec 16) : rsField (iType op rs rt imm) = rs := by
  unfold rsField
  ext i hi
  simp only [getElem_extractLsb', getLsbD_iType]
  grind

@[simp] theorem rtField_iType (op : BitVec 6) (rs rt : RegNum) (imm : BitVec 16) : rtField (iType op rs rt imm) = rt := by
  unfold rtField
  ext i hi
  simp only [getElem_extractLsb', getLsbD_iType]
  grind

@[simp] theorem immField_iType (op : BitVec 6) (rs rt : RegNum) (imm : BitVec 16) : immField (iType op rs rt imm) = imm := by
  unfold immField
  ext i hi
  simp only [getElem_extractLsb', getLsbD_iType]
  grind

/-- Bit `i` of a word of this format. -/
theorem getLsbD_jType (op : BitVec 6) (target : BitVec 26) (i : Nat) :
    (jType op target).getLsbD i =
      if i < 26 then target.getLsbD i else op.getLsbD (i - 26) := by
  show BitVec.getLsbD (op ++ target) i = _
  simp only [getLsbD_append]

@[simp] theorem opField_jType (op : BitVec 6) (target : BitVec 26) : opField (jType op target) = op := by
  unfold opField
  ext i hi
  simp only [getElem_extractLsb', getLsbD_jType]
  grind

@[simp] theorem targetField_jType (op : BitVec 6) (target : BitVec 26) : targetField (jType op target) = target := by
  unfold targetField
  ext i hi
  simp only [getElem_extractLsb', getLsbD_jType]
  grind

/-- Bit `i` of a word of this format. -/
theorem getLsbD_moveType (rs rt rd : RegNum) (i : Nat) :
    (moveType rs rt rd).getLsbD i =
      if i < 11 then false else if i < 16 then rd.getLsbD (i - 11)
      else if i < 21 then rt.getLsbD (i - 16) else if i < 26 then rs.getLsbD (i - 21) else (0x10#6).getLsbD (i - 26) := by
  show BitVec.getLsbD (0x10#6 ++ rs ++ rt ++ rd ++ 0#11) i = _
  simp only [getLsbD_append, getLsbD_zero]
  grind

@[simp] theorem opField_moveType (rs rt rd : RegNum) : opField (moveType rs rt rd) = 0x10#6 := by
  unfold opField
  ext i hi
  simp only [getElem_extractLsb', getLsbD_moveType]
  grind

@[simp] theorem rsField_moveType (rs rt rd : RegNum) : rsField (moveType rs rt rd) = rs := by
  unfold rsField
  ext i hi
  simp only [getElem_extractLsb', getLsbD_moveType]
  grind

@[simp] theorem rtField_moveType (rs rt rd : RegNum) : rtField (moveType rs rt rd) = rt := by
  unfold rtField
  ext i hi
  simp only [getElem_extractLsb', getLsbD_moveType]
  grind

@[simp] theorem rdField_moveType (rs rt rd : RegNum) : rdField (moveType rs rt rd) = rd := by
  unfold rdField
  ext i hi
  simp only [getElem_extractLsb', getLsbD_moveType]
  grind

@[simp] theorem coBit_moveType (rs rt rd : RegNum) : coBit (moveType rs rt rd) = rs.getLsbD 4 := by
  unfold coBit
  rw [getLsbD_moveType]
  rfl

/-- A word read back from its bytes. -/
@[simp] theorem decodeBytes_bytesOfWord (w : Word) (rest : List Byte) :
    decodeBytes (bytesOfWord w ++ rest) =
      match decode w with
      | .ok i => .ok (i, rest)
      | .error e => .error e := by
  have h : wordOfBytes (w.extractLsb' 0 8) (w.extractLsb' 8 8) (w.extractLsb' 16 8) (w.extractLsb' 24 8) = w := by
    apply BitVec.eq_of_getLsbD_eq
    intro i hi
    show BitVec.getLsbD (w.extractLsb' 24 8 ++ w.extractLsb' 16 8 ++ w.extractLsb' 8 8 ++ w.extractLsb' 0 8) i = _
    simp only [getLsbD_append, getLsbD_extractLsb']
    grind
  show (match decode (wordOfBytes (w.extractLsb' 0 8) (w.extractLsb' 8 8) (w.extractLsb' 16 8) (w.extractLsb' 24 8)) with
    | .ok i => Except.ok (i, rest)
    | .error e => Except.error e) = _
  rw [h]

end Sys2Proof
end

