-- ==== Sys2Proof/Laws/Exceptions.lean ====
section
/-! SUPPORT. What taking an exception does, said once (40_step_cycle.md R145, 60_exceptions.md R330). -/

namespace Sys2Proof.Machine

open Sys2Proof.Safety

/-- The address that an exception reports in BadVaddr. -/
def Exc.reports : Exc → Option Word
  | .adEL a | .adES a => some a
  | .int | .ibe | .dbe | .sys | .bp | .ri | .cpU _ | .ov => none

/-- The coprocessor number that an exception reports in Cause.CE. -/
def Exc.coprocessor : Exc → Option (BitVec 2)
  | .cpU z => some z
  | .int | .adEL _ | .adES _ | .ibe | .dbe | .sys | .bp | .ri | .ov => none

/-- Taking an exception is exception entry as the rules give it. -/
theorem takeException_taken (e : Exc) (s : State) : TakenException s (takeException e s) e.code e.reports e.coprocessor where
  epc := by
    show epcAtEntry s = _
    unfold epcAtEntry
    rcases s.pendingBranch <;> rfl
  bd := causeAtEntry_bd ..
  code := causeAtEntry_code ..
  ce z hz := by
    show (causeAtEntry _ (e.ce s.tick) _ _).extractLsb' 28 2 = z
    rw [causeAtEntry_ce]
    cases e <;> simp [Exc.coprocessor] at hz
    exact hz
  ip := causeAtEntry_ip ..
  causeRest := causeAtEntry_rest ..
  badVaddr := by cases e <;> rfl
  pushed := BitVec.eq_of_getLsbD_eq fun i hi => by
    simp only [takeException_sr, BitVec.getLsbD_extractLsb', pushStack_bit]
    grind
  kernel := BitVec.eq_of_getLsbD_eq fun i hi => by
    simp only [takeException_sr, BitVec.getLsbD_extractLsb', pushStack_bit]
    simp [hi]
  srRest := BitVec.eq_of_getLsbD_eq fun i hi => by
    simp only [takeException_sr, BitVec.getLsbD_extractLsb', pushStack_bit]
    grind
  pc := rfl
  nextPc := rfl
  noLoad := rfl
  noBranch := rfl
  regs r := takeException_readReg e s r
  hiLo := ⟨rfl, rfl⟩
  memory := ⟨fun _ => rfl, rfl, rfl⟩
  inputs := ⟨rfl, rfl⟩
  age := rfl

end Sys2Proof.Machine
end

