-- ==== Sys2Proof/Laws/PerInstr.lean ====
section
/-! SUPPORT. Statements made of every instruction, one lemma per constructor (LAWS.json "per_instruction"). -/

namespace Sys2Proof.Laws.EncodedInRow

/-- The encoded word has the fixed bits of the instruction's row of spec/opcode_table.json. -/
def Statement (i : Instr) : Prop := i.row.fits (encode i) = true

/-- A word under a mask, bit by bit. -/
theorem masked {w m p : Word} (h : ∀ i < 32, (w.getLsbD i && m.getLsbD i) = p.getLsbD i) : w &&& m = p :=
  BitVec.eq_of_getLsbD_eq fun i hi => (BitVec.getLsbD_and ..).trans (h i hi)

theorem rType_masked (rs rt rd : RegNum) (shamt : BitVec 5) (funct : BitVec 6) :
    rType rs rt rd shamt funct &&& 0xFC00003F = funct.setWidth 32 :=
  masked fun i hi => by
    rw [getLsbD_rType]
    interval_cases i <;> simp

theorem codeType_masked (code : BitVec 20) (funct : BitVec 6) :
    codeType code funct &&& 0xFC00003F = funct.setWidth 32 :=
  masked fun i hi => by
    rw [getLsbD_codeType]
    interval_cases i <;> simp

theorem iType_masked (op : BitVec 6) (rs rt : RegNum) (imm : BitVec 16) :
    iType op rs rt imm &&& 0xFC000000 = op.setWidth 32 <<< 26 :=
  masked fun i hi => by
    rw [getLsbD_iType]
    interval_cases i <;> simp

theorem regimm_masked (rs rt : RegNum) (imm : BitVec 16) :
    iType 0x01#6 rs rt imm &&& 0xFC1F0000 = 0x04000000 ||| (rt.setWidth 32 <<< 16) :=
  masked fun i hi => by
    rw [getLsbD_iType]
    interval_cases i <;> simp

theorem jType_masked (op : BitVec 6) (target : BitVec 26) :
    jType op target &&& 0xFC000000 = op.setWidth 32 <<< 26 :=
  masked fun i hi => by
    rw [getLsbD_jType]
    interval_cases i <;> simp

theorem moveType_masked (rs rt rd : RegNum) :
    moveType rs rt rd &&& 0xFFE00000 = 0x40000000 ||| (rs.setWidth 32 <<< 21) :=
  masked fun i hi => by
    rw [getLsbD_moveType]
    interval_cases i <;> simp

theorem sll (rd : RegNum) (rt : RegNum) (shamt : BitVec 5) : Statement (.sll rd rt shamt) :=
  decide_eq_true (rType_masked _ _ _ _ _)

theorem srl (rd : RegNum) (rt : RegNum) (shamt : BitVec 5) : Statement (.srl rd rt shamt) :=
  decide_eq_true (rType_masked _ _ _ _ _)

theorem sra (rd : RegNum) (rt : RegNum) (shamt : BitVec 5) : Statement (.sra rd rt shamt) :=
  decide_eq_true (rType_masked _ _ _ _ _)

theorem sllv (rd : RegNum) (rt : RegNum) (rs : RegNum) : Statement (.sllv rd rt rs) :=
  decide_eq_true (rType_masked _ _ _ _ _)

theorem srlv (rd : RegNum) (rt : RegNum) (rs : RegNum) : Statement (.srlv rd rt rs) :=
  decide_eq_true (rType_masked _ _ _ _ _)

theorem srav (rd : RegNum) (rt : RegNum) (rs : RegNum) : Statement (.srav rd rt rs) :=
  decide_eq_true (rType_masked _ _ _ _ _)

theorem add (rd : RegNum) (rs : RegNum) (rt : RegNum) : Statement (.add rd rs rt) :=
  decide_eq_true (rType_masked _ _ _ _ _)

theorem addu (rd : RegNum) (rs : RegNum) (rt : RegNum) : Statement (.addu rd rs rt) :=
  decide_eq_true (rType_masked _ _ _ _ _)

theorem sub (rd : RegNum) (rs : RegNum) (rt : RegNum) : Statement (.sub rd rs rt) :=
  decide_eq_true (rType_masked _ _ _ _ _)

theorem subu (rd : RegNum) (rs : RegNum) (rt : RegNum) : Statement (.subu rd rs rt) :=
  decide_eq_true (rType_masked _ _ _ _ _)

theorem and (rd : RegNum) (rs : RegNum) (rt : RegNum) : Statement (.and rd rs rt) :=
  decide_eq_true (rType_masked _ _ _ _ _)

theorem or (rd : RegNum) (rs : RegNum) (rt : RegNum) : Statement (.or rd rs rt) :=
  decide_eq_true (rType_masked _ _ _ _ _)

theorem xor (rd : RegNum) (rs : RegNum) (rt : RegNum) : Statement (.xor rd rs rt) :=
  decide_eq_true (rType_masked _ _ _ _ _)

theorem nor (rd : RegNum) (rs : RegNum) (rt : RegNum) : Statement (.nor rd rs rt) :=
  decide_eq_true (rType_masked _ _ _ _ _)

theorem slt (rd : RegNum) (rs : RegNum) (rt : RegNum) : Statement (.slt rd rs rt) :=
  decide_eq_true (rType_masked _ _ _ _ _)

theorem sltu (rd : RegNum) (rs : RegNum) (rt : RegNum) : Statement (.sltu rd rs rt) :=
  decide_eq_true (rType_masked _ _ _ _ _)

theorem addi (rt : RegNum) (rs : RegNum) (imm : BitVec 16) : Statement (.addi rt rs imm) :=
  decide_eq_true (iType_masked _ _ _ _)

theorem addiu (rt : RegNum) (rs : RegNum) (imm : BitVec 16) : Statement (.addiu rt rs imm) :=
  decide_eq_true (iType_masked _ _ _ _)

theorem slti (rt : RegNum) (rs : RegNum) (imm : BitVec 16) : Statement (.slti rt rs imm) :=
  decide_eq_true (iType_masked _ _ _ _)

theorem sltiu (rt : RegNum) (rs : RegNum) (imm : BitVec 16) : Statement (.sltiu rt rs imm) :=
  decide_eq_true (iType_masked _ _ _ _)

theorem andi (rt : RegNum) (rs : RegNum) (imm : BitVec 16) : Statement (.andi rt rs imm) :=
  decide_eq_true (iType_masked _ _ _ _)

theorem ori (rt : RegNum) (rs : RegNum) (imm : BitVec 16) : Statement (.ori rt rs imm) :=
  decide_eq_true (iType_masked _ _ _ _)

theorem xori (rt : RegNum) (rs : RegNum) (imm : BitVec 16) : Statement (.xori rt rs imm) :=
  decide_eq_true (iType_masked _ _ _ _)

theorem lui (rt : RegNum) (imm : BitVec 16) : Statement (.lui rt imm) :=
  decide_eq_true (iType_masked _ _ _ _)

theorem mult (rs : RegNum) (rt : RegNum) : Statement (.mult rs rt) :=
  decide_eq_true (rType_masked _ _ _ _ _)

theorem multu (rs : RegNum) (rt : RegNum) : Statement (.multu rs rt) :=
  decide_eq_true (rType_masked _ _ _ _ _)

theorem div (rs : RegNum) (rt : RegNum) : Statement (.div rs rt) :=
  decide_eq_true (rType_masked _ _ _ _ _)

theorem divu (rs : RegNum) (rt : RegNum) : Statement (.divu rs rt) :=
  decide_eq_true (rType_masked _ _ _ _ _)

theorem mfhi (rd : RegNum) : Statement (.mfhi rd) :=
  decide_eq_true (rType_masked _ _ _ _ _)

theorem mflo (rd : RegNum) : Statement (.mflo rd) :=
  decide_eq_true (rType_masked _ _ _ _ _)

theorem mthi (rs : RegNum) : Statement (.mthi rs) :=
  decide_eq_true (rType_masked _ _ _ _ _)

theorem mtlo (rs : RegNum) : Statement (.mtlo rs) :=
  decide_eq_true (rType_masked _ _ _ _ _)

theorem j (target : BitVec 26) : Statement (.j target) :=
  decide_eq_true (jType_masked _ _)

theorem jal (target : BitVec 26) : Statement (.jal target) :=
  decide_eq_true (jType_masked _ _)

theorem jr (rs : RegNum) : Statement (.jr rs) :=
  decide_eq_true (rType_masked _ _ _ _ _)

theorem jalr (rd : RegNum) (rs : RegNum) : Statement (.jalr rd rs) :=
  decide_eq_true (rType_masked _ _ _ _ _)

theorem beq (rs : RegNum) (rt : RegNum) (imm : BitVec 16) : Statement (.beq rs rt imm) :=
  decide_eq_true (iType_masked _ _ _ _)

theorem bne (rs : RegNum) (rt : RegNum) (imm : BitVec 16) : Statement (.bne rs rt imm) :=
  decide_eq_true (iType_masked _ _ _ _)

theorem blez (rs : RegNum) (imm : BitVec 16) : Statement (.blez rs imm) :=
  decide_eq_true (iType_masked _ _ _ _)

theorem bgtz (rs : RegNum) (imm : BitVec 16) : Statement (.bgtz rs imm) :=
  decide_eq_true (iType_masked _ _ _ _)

theorem bltz (rs : RegNum) (imm : BitVec 16) : Statement (.bltz rs imm) :=
  decide_eq_true (regimm_masked _ _ _)

theorem bgez (rs : RegNum) (imm : BitVec 16) : Statement (.bgez rs imm) :=
  decide_eq_true (regimm_masked _ _ _)

theorem bltzal (rs : RegNum) (imm : BitVec 16) : Statement (.bltzal rs imm) :=
  decide_eq_true (regimm_masked _ _ _)

theorem bgezal (rs : RegNum) (imm : BitVec 16) : Statement (.bgezal rs imm) :=
  decide_eq_true (regimm_masked _ _ _)

theorem lb (rt : RegNum) (imm : BitVec 16) (rs : RegNum) : Statement (.lb rt imm rs) :=
  decide_eq_true (iType_masked _ _ _ _)

theorem lbu (rt : RegNum) (imm : BitVec 16) (rs : RegNum) : Statement (.lbu rt imm rs) :=
  decide_eq_true (iType_masked _ _ _ _)

theorem lh (rt : RegNum) (imm : BitVec 16) (rs : RegNum) : Statement (.lh rt imm rs) :=
  decide_eq_true (iType_masked _ _ _ _)

theorem lhu (rt : RegNum) (imm : BitVec 16) (rs : RegNum) : Statement (.lhu rt imm rs) :=
  decide_eq_true (iType_masked _ _ _ _)

theorem lw (rt : RegNum) (imm : BitVec 16) (rs : RegNum) : Statement (.lw rt imm rs) :=
  decide_eq_true (iType_masked _ _ _ _)

theorem lwl (rt : RegNum) (imm : BitVec 16) (rs : RegNum) : Statement (.lwl rt imm rs) :=
  decide_eq_true (iType_masked _ _ _ _)

theorem lwr (rt : RegNum) (imm : BitVec 16) (rs : RegNum) : Statement (.lwr rt imm rs) :=
  decide_eq_true (iType_masked _ _ _ _)

theorem sb (rt : RegNum) (imm : BitVec 16) (rs : RegNum) : Statement (.sb rt imm rs) :=
  decide_eq_true (iType_masked _ _ _ _)

theorem sh (rt : RegNum) (imm : BitVec 16) (rs : RegNum) : Statement (.sh rt imm rs) :=
  decide_eq_true (iType_masked _ _ _ _)

theorem sw (rt : RegNum) (imm : BitVec 16) (rs : RegNum) : Statement (.sw rt imm rs) :=
  decide_eq_true (iType_masked _ _ _ _)

theorem swl (rt : RegNum) (imm : BitVec 16) (rs : RegNum) : Statement (.swl rt imm rs) :=
  decide_eq_true (iType_masked _ _ _ _)

theorem swr (rt : RegNum) (imm : BitVec 16) (rs : RegNum) : Statement (.swr rt imm rs) :=
  decide_eq_true (iType_masked _ _ _ _)

theorem syscall (code : BitVec 20) : Statement (.syscall code) :=
  decide_eq_true (codeType_masked _ _)

theorem brk (code : BitVec 20) : Statement (.brk code) :=
  decide_eq_true (codeType_masked _ _)

theorem mfc0 (rt : RegNum) (rd : RegNum) : Statement (.mfc0 rt rd) :=
  decide_eq_true (moveType_masked _ _ _)

theorem mtc0 (rt : RegNum) (rd : RegNum) : Statement (.mtc0 rt rd) :=
  decide_eq_true (moveType_masked _ _ _)

theorem rfe : Statement .rfe := decide_eq_true rfl

theorem cop1 (cofun : BitVec 26) : Statement (.cop1 cofun) :=
  decide_eq_true (jType_masked _ _)

theorem cop2 (cofun : BitVec 26) : Statement (.cop2 cofun) :=
  decide_eq_true (jType_masked _ _)

theorem cop3 (cofun : BitVec 26) : Statement (.cop3 cofun) :=
  decide_eq_true (jType_masked _ _)

theorem lwc0 (rt : RegNum) (imm : BitVec 16) (rs : RegNum) : Statement (.lwc0 rt imm rs) :=
  decide_eq_true (iType_masked _ _ _ _)

theorem lwc1 (rt : RegNum) (imm : BitVec 16) (rs : RegNum) : Statement (.lwc1 rt imm rs) :=
  decide_eq_true (iType_masked _ _ _ _)

theorem lwc2 (rt : RegNum) (imm : BitVec 16) (rs : RegNum) : Statement (.lwc2 rt imm rs) :=
  decide_eq_true (iType_masked _ _ _ _)

theorem lwc3 (rt : RegNum) (imm : BitVec 16) (rs : RegNum) : Statement (.lwc3 rt imm rs) :=
  decide_eq_true (iType_masked _ _ _ _)

theorem swc0 (rt : RegNum) (imm : BitVec 16) (rs : RegNum) : Statement (.swc0 rt imm rs) :=
  decide_eq_true (iType_masked _ _ _ _)

theorem swc1 (rt : RegNum) (imm : BitVec 16) (rs : RegNum) : Statement (.swc1 rt imm rs) :=
  decide_eq_true (iType_masked _ _ _ _)

theorem swc2 (rt : RegNum) (imm : BitVec 16) (rs : RegNum) : Statement (.swc2 rt imm rs) :=
  decide_eq_true (iType_masked _ _ _ _)

theorem swc3 (rt : RegNum) (imm : BitVec 16) (rs : RegNum) : Statement (.swc3 rt imm rs) :=
  decide_eq_true (iType_masked _ _ _ _)

end Sys2Proof.Laws.EncodedInRow
end

