-- ==== Sys2Proof/Laws/Step.lean ====
section
/-! SUPPORT. What a step can do, said once (40_step_cycle.md R130). -/

namespace Sys2Proof.Machine

open Sys2Proof.Safety

/-- A fetch raises an address error or a bus error. -/
theorem fetch_exc {s : State} {e : Exc} (h : fetch s = .exc e) : e = .adEL s.pc ∨ e = .ibe := by
  unfold fetch at h
  repeat' split at h
  all_goals first | (simp at h; done) | (simp at h; simp [h.symm])

/-- The state in which a fetched word runs: the fetch of an external device issued its operation. -/
def Fetched (s u : State) : Prop := u = s ∨ ∃ op, u = logBus op s

/-- A word that is no instruction of the table takes RI or CpU where it ends in a next state. -/
theorem execUndecoded_next {d : DecodeError} {s t : State} (h : execUndecoded d s = .next t) :
    ∃ e : Exc, (e = .ri ∨ e = .cpU 0) ∧ t = takeException e s := by
  cases d with
  | reserved | truncated => exact ⟨.ri, .inl rfl, by simpa [execUndecoded, raise] using h.symm⟩
  | cop0Reserved =>
    simp only [execUndecoded, whenUsable] at h
    split at h
    · exact ⟨.ri, .inl rfl, by simpa [raise] using h.symm⟩
    · exact ⟨.cpU 0, .inr rfl, by simpa [raise] using h.symm⟩
  | regimmAlias => simp [execUndecoded] at h

/-- A step that ends in a next state took an interrupt, took an exception at its fetch or its decode, or ran an instruction; each
in the state whose inputs are sampled. -/
theorem step_next {s t : State} (h : step s = .next t) :
    (∃ (e : Exc) (u : State), Fetched (sampleInputs s) u ∧ t = takeException e u) ∨
    (∃ (w : Word) (i : Instr) (u : State), fetch (sampleInputs s) = .ok (w, u) ∧ Fetched (sampleInputs s) u ∧
      decode w = .ok i ∧ exec i u = .next t) := by
  simp only [step, cycle, runSampled] at h
  split at h
  · exact .inl ⟨.int, _, .inl rfl, by simpa [raise] using h.symm⟩
  · rcases Res.settle_next h with ⟨⟨w, u⟩, hf, hk⟩ | ⟨e, -, rfl⟩
    · have hu : Fetched (sampleInputs s) u := by
        obtain ⟨-, g, -, hd⟩ := fetch_ok hf
        rcases deviceRead_some hd with ⟨-, -, rfl⟩ | ⟨-, x, -, -, rfl⟩
        · exact .inl rfl
        · exact .inr ⟨_, rfl⟩
      simp only [runWord] at hk
      split at hk
      · next i hi => exact .inr ⟨w, i, u, hf, hu, hi, hk⟩
      · obtain ⟨e, -, rfl⟩ := execUndecoded_next hk
        exact .inl ⟨e, u, hu, rfl⟩
    · exact .inl ⟨e, _, .inl rfl, rfl⟩

end Sys2Proof.Machine
end

