-- ==== Sys2Proof/Tests/Slice0.lean ====
section
/-! SUPPORT. Tests: words written out from the spec, ill-formed terms, single steps whose results are the spec's own examples and
vectors (41_alu.md to 45_system_cop.md, 95_test_vectors.md), and a witness for the hypotheses of every statement. -/

namespace Sys2Proof.Tests

open Sys2Proof.Machine Sys2Proof.Safety Sys2Proof.Claims

/-! ## Decoding: the words of the rules' own examples -/

/-- The decoder reads `i` from the word `w`. -/
abbrev Reads (w : Nat) (i : Instr) : Prop := decodeTableWord 32 w = some i

/-- R162 to R171. -/
theorem test_decode_alu_register :
    Reads 0x00221820 (.add 3 1 2) ∧
    Reads 0x00221821 (.addu 3 1 2) ∧
    Reads 0x00221822 (.sub 3 1 2) ∧
    Reads 0x00221823 (.subu 3 1 2) ∧
    Reads 0x00221824 (.and 3 1 2) ∧
    Reads 0x00221825 (.or 3 1 2) ∧
    Reads 0x00221826 (.xor 3 1 2) ∧
    Reads 0x00221827 (.nor 3 1 2) ∧
    Reads 0x0022182A (.slt 3 1 2) ∧
    Reads 0x0022182B (.sltu 3 1 2) := by decide

/-- R172 to R179. -/
theorem test_decode_alu_immediate :
    Reads 0x2022FFFF (.addi 2 1 0xFFFF) ∧
    Reads 0x2401000A (.addiu 1 0 10) ∧
    Reads 0x28220005 (.slti 2 1 5) ∧
    Reads 0x2C22FFFF (.sltiu 2 1 0xFFFF) ∧
    Reads 0x3022FFFF (.andi 2 1 0xFFFF) ∧
    Reads 0x3422FFFF (.ori 2 1 0xFFFF) ∧
    Reads 0x3822FFFF (.xori 2 1 0xFFFF) ∧
    Reads 0x3C021234 (.lui 2 0x1234) := by decide

/-- R180 to R185. -/
theorem test_decode_shifts :
    Reads 0x00021900 (.sll 3 2 4) ∧
    Reads 0x00021FC2 (.srl 3 2 31) ∧
    Reads 0x00021903 (.sra 3 2 4) ∧
    Reads 0x00221804 (.sllv 3 2 1) ∧
    Reads 0x00221806 (.srlv 3 2 1) ∧
    Reads 0x00221807 (.srav 3 2 1) := by decide

/-- R202 to R209. -/
theorem test_decode_muldiv :
    Reads 0x00220018 (.mult 1 2) ∧
    Reads 0x00220019 (.multu 1 2) ∧
    Reads 0x0022001A (.div 1 2) ∧
    Reads 0x0022001B (.divu 1 2) ∧
    Reads 0x00001810 (.mfhi 3) ∧
    Reads 0x00001812 (.mflo 3) ∧
    Reads 0x00200011 (.mthi 1) ∧
    Reads 0x00200013 (.mtlo 1) := by decide

/-- R223 to R226. -/
theorem test_decode_jumps :
    Reads 0x08004000 (.j 0x4000) ∧
    Reads 0x0C008000 (.jal 0x8000) ∧
    Reads 0x03E00008 (.jr 31) ∧
    Reads 0x0080F809 (.jalr 31 4) := by decide

/-- R227 to R234. -/
theorem test_decode_branches :
    Reads 0x10220003 (.beq 1 2 3) ∧
    Reads 0x1422FFFF (.bne 1 2 0xFFFF) ∧
    Reads 0x18200004 (.blez 1 4) ∧
    Reads 0x1C200004 (.bgtz 1 4) ∧
    Reads 0x04200004 (.bltz 1 4) ∧
    Reads 0x04210004 (.bgez 1 4) ∧
    Reads 0x04300004 (.bltzal 1 4) ∧
    Reads 0x04310004 (.bgezal 1 4) := by decide

/-- R255 to R261. -/
theorem test_decode_loads :
    Reads 0x80220003 (.lb 2 3 1) ∧
    Reads 0x90220001 (.lbu 2 1 1) ∧
    Reads 0x84220002 (.lh 2 2 1) ∧
    Reads 0x94220000 (.lhu 2 0 1) ∧
    Reads 0x8C220000 (.lw 2 0 1) ∧
    Reads 0x88220001 (.lwl 2 1 1) ∧
    Reads 0x98220001 (.lwr 2 1 1) := by decide

/-- R262 to R266. -/
theorem test_decode_stores :
    Reads 0xA0220003 (.sb 2 3 1) ∧
    Reads 0xA4220002 (.sh 2 2 1) ∧
    Reads 0xAC220004 (.sw 2 4 1) ∧
    Reads 0xA8220001 (.swl 2 1 1) ∧
    Reads 0xB8220001 (.swr 2 1 1) := by decide

/-- R291 to R295. -/
theorem test_decode_system :
    Reads 0x0000004C (.syscall 1) ∧
    Reads 0x000001CD (.brk 7) ∧
    Reads 0x40026000 (.mfc0 2 12) ∧
    Reads 0x40826800 (.mtc0 2 13) ∧
    Reads 0x42000010 .rfe := by decide

/-- R297, R107. -/
theorem test_decode_coprocessors :
    Reads 0x44000000 (.cop1 0) ∧
    Reads 0x48000000 (.cop2 0) ∧
    Reads 0x4FFFFFFF (.cop3 0x3FFFFFF) := by decide

/-- R298, R107. -/
theorem test_decode_coprocessor_loads :
    Reads 0xC0220000 (.lwc0 2 0 1) ∧
    Reads 0xC4220000 (.lwc1 2 0 1) ∧
    Reads 0xC8220000 (.lwc2 2 0 1) ∧
    Reads 0xCC220000 (.lwc3 2 0 1) := by decide

/-- R298, R107. -/
theorem test_decode_coprocessor_stores :
    Reads 0xE0220000 (.swc0 2 0 1) ∧
    Reads 0xE4220000 (.swc1 2 0 1) ∧
    Reads 0xE8220000 (.swc2 2 0 1) ∧
    Reads 0xEC220000 (.swc3 2 0 1) := by decide

/-- R111, R109, R299, R100: rejections, each by its name. -/
theorem test_decode_rejects :
    decode 0x00000001 = .error .reserved ∧ decode 0xFC000000 = .error .reserved ∧ decode 0x04220004 = .error .regimmAlias ∧
    decode 0x40426000 = .error .cop0Reserved ∧ decode 0x42000001 = .error .cop0Reserved ∧
    decodeBytes [0x20, 0x18, 0x22] = .error .truncated := by decide

/-- R113: fields an instruction does not use are ignored. -/
theorem test_decode_ignores :
    Reads 0x01E21900 (.sll 3 2 4) ∧ Reads 0x43FFFFD0 .rfe ∧ Reads 0x400267FF (.mfc0 2 12) := by decide

/-- R74, R100: the word at the lowest address first. -/
theorem test_decode_bytes :
    decodeBytes [0x20, 0x18, 0x22, 0x00, 0xAA] = .ok (.add 3 1 2, [0xAA]) := by decide

/-! ## Ill-formed terms -/

/-- R226. -/
theorem test_wellFormed_jalr : Instr.wellFormed (.jalr 4 4) = false ∧ Instr.wellFormed (.jalr 0 0) = true := by decide
/-- R233. -/
theorem test_wellFormed_bltzal : Instr.wellFormed (.bltzal 31 4) = false ∧ Instr.wellFormed (.bltzal 30 4) = true := by decide
/-- R234. -/
theorem test_wellFormed_bgezal : Instr.wellFormed (.bgezal 31 4) = false ∧ Instr.wellFormed (.bgezal 0 4) = true := by decide
/-- R293. -/
theorem test_wellFormed_mfc0 : Instr.wellFormed (.mfc0 2 3) = false ∧ Instr.wellFormed (.mfc0 2 8) = true := by decide
/-- R298. -/
theorem test_wellFormed_lwc0 : Instr.wellFormed (.lwc0 2 0 1) = false ∧ Instr.wellFormed (.lwc1 2 0 1) = true := by decide
/-- R298. -/
theorem test_wellFormed_swc0 : Instr.wellFormed (.swc0 2 0 1) = false ∧ Instr.wellFormed (.swc1 2 0 1) = true := by decide

/-! ## Single instructions -/

/-- The start state S0 of 95_test_vectors.md with some registers set; the lines are low for four steps. -/
def start (regs : List (RegNum × Word)) : State :=
  { State.reset with
    regs := regs.foldl (fun r p => setReg r p.1 p.2) (Vector.replicate 32 0)
    pc := 0x80001000
    nextPc := 0x80001004
    sr := 0
    epc := 0
    badVaddr := 0
    intLines := [0, 0, 0, 0] }

/-- S0 with the data words M0 at 0x80010000. -/
def withM0 (regs : List (RegNum × Word)) : State :=
  { start regs with mem := ((Memory.writeN [] 0x10000 0x44332211 .word).writeN 0x10004 0x88776655 .word) }

/-- S0 with another SR and a base address in register 1. -/
def access (sr a : Word) : State := { start [(1, a)] with sr := sr }

/-- A field of the next state, if there is one. -/
def after {α : Type} (i : Instr) (s : State) (f : State → α) : Option α :=
  match exec i s with
  | .next t => some (f t)
  | .fault _ | .refused _ => none

/-- The step's stop, if it is a refusal. -/
def refusal (i : Instr) (s : State) : Option Refusal :=
  match exec i s with
  | .refused r => some r
  | .next _ | .fault _ => none

/-- The step's stop, if it is a fault. -/
def stop (i : Instr) (s : State) : Option Fault :=
  match exec i s with
  | .fault f => some f
  | .next _ | .refused _ => none

/-- R162. -/
theorem test_add : after (.add 3 1 2) (start [(1, 0x7FFFFFFF), (2, 0xFFFFFFFF)]) (·.readReg 3) = some 0x7FFFFFFE := by decide
/-- R162. -/
theorem test_add_overflow :
    after (.add 3 1 2) (start [(1, 0x7FFFFFFF), (2, 1), (3, 9)]) (fun t => (t.readReg 3, t.epc, t.pc)) = some (9, 0x80001000, 0x80000080) := by decide
/-- R163. -/
theorem test_addu : after (.addu 1 1 1) (start [(1, 0x40000001)]) (·.readReg 1) = some 0x80000002 := by decide
/-- R163. -/
theorem test_addu_wraps : after (.addu 3 1 2) (start [(1, 0xFFFFFFFF), (2, 1)]) (·.readReg 3) = some 0 := by decide
/-- R164. -/
theorem test_sub : after (.sub 3 1 2) (start [(1, 5), (2, 7)]) (·.readReg 3) = some 0xFFFFFFFE := by decide
/-- R164. -/
theorem test_sub_overflow :
    after (.sub 3 1 2) (start [(2, 0x80000000), (3, 9)]) (fun t => (t.readReg 3, t.epc, t.pc)) = some (9, 0x80001000, 0x80000080) := by decide
/-- R165. -/
theorem test_subu : after (.subu 3 1 2) (start [(2, 0x80000000)]) (·.readReg 3) = some 0x80000000 := by decide
/-- R166. -/
theorem test_and : after (.and 3 1 2) (start [(1, 0x0000F0F0), (2, 0x0000FF00)]) (·.readReg 3) = some 0x0000F000 := by decide
/-- R167. -/
theorem test_or : after (.or 3 1 2) (start [(1, 0x0000F0F0), (2, 0x0000FF00)]) (·.readReg 3) = some 0x0000FFF0 := by decide
/-- R168. -/
theorem test_xor : after (.xor 3 1 2) (start [(1, 0x0000F0F0), (2, 0x0000FF00)]) (·.readReg 3) = some 0x00000FF0 := by decide
/-- R169. -/
theorem test_nor : after (.nor 3 1 2) (start [(1, 0x0000F0F0), (2, 0x0000FF00)]) (·.readReg 3) = some 0xFFFF000F := by decide
/-- R170. -/
theorem test_slt : after (.slt 3 1 2) (start [(1, 0x80000000), (2, 0x7FFFFFFF)]) (·.readReg 3) = some 1 := by decide
/-- R171. -/
theorem test_sltu : after (.sltu 3 1 2) (start [(1, 0x80000000), (2, 0x7FFFFFFF)]) (·.readReg 3) = some 0 := by decide
/-- R172. -/
theorem test_addi_overflow :
    after (.addi 2 1 0xFFFF) (start [(1, 0x80000000), (2, 9)]) (fun t => (t.readReg 2, t.epc, t.pc)) = some (9, 0x80001000, 0x80000080) := by decide
/-- R172. -/
theorem test_addi : after (.addi 2 1 0xFFFF) (start [(1, 0x80000001)]) (·.readReg 2) = some 0x80000000 := by decide
/-- R173. -/
theorem test_addiu : after (.addiu 2 1 1) (start [(1, 0x7FFFFFFF)]) (·.readReg 2) = some 0x80000000 := by decide
/-- R173. -/
theorem test_addiu_sign : after (.addiu 2 0 0xFFFF) (start []) (·.readReg 2) = some 0xFFFFFFFF := by decide
/-- R174. -/
theorem test_slti_equal : after (.slti 2 1 0x8000) (start [(1, 0xFFFF8000)]) (·.readReg 2) = some 0 := by decide
/-- R174. -/
theorem test_slti : after (.slti 2 1 0x8000) (start [(1, 0xFFFF7FFF)]) (·.readReg 2) = some 1 := by decide
/-- R175. -/
theorem test_sltiu : after (.sltiu 2 1 0xFFFF) (start [(1, 5)]) (·.readReg 2) = some 1 := by decide
/-- R175. -/
theorem test_sltiu_equal : after (.sltiu 2 1 0xFFFF) (start [(1, 0xFFFFFFFF)]) (·.readReg 2) = some 0 := by decide
/-- R176. -/
theorem test_andi : after (.andi 2 1 0xFFFF) (start [(1, 0x12345678)]) (·.readReg 2) = some 0x00005678 := by decide
/-- R177. -/
theorem test_ori : after (.ori 2 1 0xFFFF) (start [(1, 0x12340000)]) (·.readReg 2) = some 0x1234FFFF := by decide
/-- R178. -/
theorem test_xori : after (.xori 2 1 0xFFFF) (start [(1, 0x12345678)]) (·.readReg 2) = some 0x1234A987 := by decide
/-- R179. -/
theorem test_lui : after (.lui 2 0x8000) (start []) (·.readReg 2) = some 0x80000000 := by decide
/-- R180. -/
theorem test_sll : after (.sll 3 2 31) (start [(2, 0x80000001)]) (·.readReg 3) = some 0x80000000 := by decide
/-- R181. -/
theorem test_srl : after (.srl 3 2 4) (start [(2, 0x80000001)]) (·.readReg 3) = some 0x08000000 := by decide
/-- R182. -/
theorem test_sra : after (.sra 3 2 4) (start [(2, 0x80000001)]) (·.readReg 3) = some 0xF8000000 := by decide
/-- R183. -/
theorem test_sllv : after (.sllv 3 2 1) (start [(2, 0x80000001), (1, 33)]) (·.readReg 3) = some 2 := by decide
/-- R184. -/
theorem test_srlv : after (.srlv 3 2 1) (start [(2, 0x80000001), (1, 32)]) (·.readReg 3) = some 0x80000001 := by decide
/-- R185. -/
theorem test_srav : after (.srav 3 2 1) (start [(2, 0x80000001), (1, 0xFFFFFFFF)]) (·.readReg 3) = some 0xFFFFFFFF := by decide
/-- R21. -/
theorem test_register_zero : after (.addiu 0 0 5) (start []) (·.readReg 0) = some 0 := by decide

/-- R202. -/
theorem test_mult : after (.mult 1 2) (start [(1, 0xFFFFFFFE), (2, 3)]) (fun t => (t.hi, t.lo)) = some (0xFFFFFFFF, 0xFFFFFFFA) := by decide
/-- R202. -/
theorem test_mult_largest : after (.mult 1 2) (start [(1, 0x80000000), (2, 0x80000000)]) (fun t => (t.hi, t.lo)) = some (0x40000000, 0) := by decide
/-- R203. -/
theorem test_multu : after (.multu 1 2) (start [(1, 0xFFFFFFFF), (2, 0xFFFFFFFF)]) (fun t => (t.hi, t.lo)) = some (0xFFFFFFFE, 1) := by decide
/-- R204. -/
theorem test_div : after (.div 1 2) (start [(1, 0xFFFFFFF9), (2, 2)]) (fun t => (t.hi, t.lo)) = some (0xFFFFFFFF, 0xFFFFFFFD) := by decide
/-- R204. -/
theorem test_div_by_zero : after (.div 1 2) (start [(1, 0xFFFFFFF9), (2, 0)]) (fun t => (t.hi, t.lo)) = some (0xFFFFFFF9, 1) := by decide
/-- R205. -/
theorem test_divu : after (.divu 1 2) (start [(1, 0xFFFFFFFF), (2, 16)]) (fun t => (t.hi, t.lo)) = some (0xF, 0x0FFFFFFF) := by decide
/-- R205. -/
theorem test_divu_by_zero : after (.divu 1 2) (start [(1, 7), (2, 0)]) (fun t => (t.hi, t.lo)) = some (7, 0xFFFFFFFF) := by decide
/-- R206: with the pending load to the same register discarded. -/
theorem test_mfhi :
    after (.mfhi 3) { start [] with hi := 0x12345678, pendingLoad := some ⟨3, 7⟩ } (fun t => (t.readReg 3, t.hiloAge)) =
      some (0x12345678, 2) := by decide
/-- R207. -/
theorem test_mflo : after (.mflo 3) { start [] with hi := 5, lo := 3 } (·.readReg 3) = some 3 := by decide
/-- R208. -/
theorem test_mthi :
    after (.mthi 1) { start [(1, 0xCAFEF00D)] with lo := 4 } (fun t => (t.hi, t.lo)) = some (0xCAFEF00D, 4) := by decide
/-- R209. -/
theorem test_mtlo :
    after (.mtlo 1) { start [(1, 0xCAFEF00D)] with hi := 4 } (fun t => (t.hi, t.lo)) = some (4, 0xCAFEF00D) := by decide
/-- R201. -/
theorem test_hiLoHazard :
    stop (.mult 1 2) { start [] with hiloAge := 1 } = some .hiLoHazard ∧ stop (.mult 1 2) (start []) = none := by decide

/-- R223. -/
theorem test_j :
    after (.j 0x4000) (start []) (·.pendingBranch) = some (some ⟨true, 0x80010000, 0x80001000⟩) := by decide
/-- R223: the region is that of the delay slot. -/
theorem test_j_region :
    after (.j 0x40) { start [] with pc := 0x8FFFFFFC } (·.pendingBranch) = some (some ⟨true, 0x90000100, 0x8FFFFFFC⟩) := by
  decide
/-- R224. -/
theorem test_jal :
    after (.jal 0x800) (start []) (fun t => (t.readReg 31, t.pendingBranch)) =
      some (0x80001008, some ⟨true, 0x80002000, 0x80001000⟩) := by decide
/-- R225. -/
theorem test_jr :
    after (.jr 31) (start [(31, 0x80004000)]) (·.pendingBranch) = some (some ⟨true, 0x80004000, 0x80001000⟩) := by decide
/-- R226. -/
theorem test_jalr :
    after (.jalr 31 4) (start [(4, 0x80002000)]) (fun t => (t.readReg 31, t.pendingBranch)) =
      some (0x80001008, some ⟨true, 0x80002000, 0x80001000⟩) := by decide
/-- R226. -/
theorem test_jalr_same : refusal (.jalr 4 4) (start []) = some .jalrLinkOverwritesTarget := by decide
/-- R227. -/
theorem test_beq :
    after (.beq 1 2 3) (start [(1, 4), (2, 4)]) (·.pendingBranch) = some (some ⟨true, 0x80001010, 0x80001000⟩) := by decide
/-- R228. -/
theorem test_bne :
    after (.bne 1 0 0xFFFF) (start [(1, 1)]) (·.pendingBranch) = some (some ⟨true, 0x80001000, 0x80001000⟩) := by decide
/-- R229. -/
theorem test_blez :
    after (.blez 1 4) (start [(1, 0x80000000)]) (·.pendingBranch) = some (some ⟨true, 0x80001014, 0x80001000⟩) := by decide
/-- R230. -/
theorem test_bgtz :
    after (.bgtz 1 4) (start []) (·.pendingBranch) = some (some ⟨false, 0x80001014, 0x80001000⟩) := by decide
/-- R231. -/
theorem test_bltz :
    after (.bltz 1 4) (start [(1, 0x80000000)]) (·.pendingBranch) = some (some ⟨true, 0x80001014, 0x80001000⟩) := by decide
/-- R232. -/
theorem test_bgez :
    after (.bgez 1 4) (start []) (·.pendingBranch) = some (some ⟨true, 0x80001014, 0x80001000⟩) := by decide
/-- R220. -/
theorem test_branch_back :
    after (.beq 0 0 0x8000) (start []) (·.pendingBranch) = some (some ⟨true, 0x7FFE1004, 0x80001000⟩) := by decide
/-- R233: the link is written when the branch is not taken. -/
theorem test_bltzal :
    after (.bltzal 1 4) (start [(1, 5)]) (fun t => (t.readReg 31, t.pendingBranch)) =
      some (0x80001008, some ⟨false, 0x80001014, 0x80001000⟩) := by decide
/-- R234. -/
theorem test_bgezal :
    after (.bgezal 1 4) (start []) (fun t => (t.readReg 31, t.pendingBranch)) =
      some (0x80001008, some ⟨true, 0x80001014, 0x80001000⟩) ∧
    refusal (.bgezal 31 4) (start []) = some .linkRegisterAsCondition := by decide
/-- R141: the delay slot's step goes to the target. -/
theorem test_branch_commit :
    after (.addiu 1 0 5) { start [] with pendingBranch := some ⟨true, 0x80010000, 0x80000FFC⟩ } (fun t => (t.readReg 1, t.pc)) =
      some (5, 0x80010000) := by decide

/-- R255. -/
theorem test_lb :
    after (.lb 2 7 1) (withM0 [(1, 0x80010000), (2, 0xAABBCCDD)]) (·.pendingLoad) = some (some ⟨2, 0xFFFFFF88⟩) := by decide
/-- R256. -/
theorem test_lbu :
    after (.lbu 2 7 1) (withM0 [(1, 0x80010000), (2, 0xAABBCCDD)]) (·.pendingLoad) = some (some ⟨2, 0x88⟩) := by decide
/-- R257. -/
theorem test_lh :
    after (.lh 2 6 1) (withM0 [(1, 0x80010000), (2, 0xAABBCCDD)]) (·.pendingLoad) = some (some ⟨2, 0xFFFF8877⟩) := by decide
/-- R258. -/
theorem test_lhu :
    after (.lhu 2 6 1) (withM0 [(1, 0x80010000), (2, 0xAABBCCDD)]) (·.pendingLoad) = some (some ⟨2, 0x8877⟩) := by decide
/-- R259. -/
theorem test_lw :
    after (.lw 2 0xFFFC 1) (withM0 [(1, 0x80010004), (2, 0xAABBCCDD)]) (·.pendingLoad) = some (some ⟨2, 0x44332211⟩) := by decide
/-- R91. -/
theorem test_lw_mirror :
    after (.lw 2 0 1) (withM0 [(1, 0x00410000), (2, 0xAABBCCDD)]) (·.pendingLoad) = some (some ⟨2, 0x44332211⟩) := by decide
/-- R260. -/
theorem test_lwl :
    after (.lwl 2 1 1) (withM0 [(1, 0x80010000), (2, 0xAABBCCDD)]) (·.pendingLoad) = some (some ⟨2, 0x2211CCDD⟩) := by decide
/-- R261. -/
theorem test_lwr :
    after (.lwr 2 1 1) (withM0 [(1, 0x80010000), (2, 0xAABBCCDD)]) (·.pendingLoad) = some (some ⟨2, 0xAA443322⟩) := by decide
/-- R261, R267: the second load of the pair merges into the first. -/
theorem test_lwl_pair :
    after (.lwl 2 4 1) { withM0 [(1, 0x80010000)] with pendingLoad := some ⟨2, 0xAA443322⟩ } (·.pendingLoad) =
      some (some ⟨2, 0x55443322⟩) := by decide
/-- R259, R334. -/
theorem test_lw_misaligned :
    after (.lw 2 2 1) (withM0 [(1, 0x80010000), (2, 0x99)]) (fun t => (t.readReg 2, t.badVaddr, t.pc, t.pendingLoad)) =
      some (0x99, 0x80010002, 0x80000080, none) := by decide
/-- R334: LWL reports its own address. -/
theorem test_lwl_forbidden :
    after (.lwl 2 3 1) (access 2 0x80010000) (fun t => (t.badVaddr, t.epc)) = some (0x80010003, 0x80001000) := by decide

/-- R262. -/
theorem test_sb :
    after (.sb 2 3 1) (withM0 [(1, 0x80010000), (2, 0x12345680)]) (fun t => (t.mem.readN 0x10000 .word, t.icacheStale)) =
      some (0x80332211, [(.ram, 0x10000)]) := by decide
/-- R263. -/
theorem test_sh :
    after (.sh 2 2 1) (withM0 [(1, 0x80010000), (2, 0x0000BEEF)]) (fun t => (t.mem.readN 0x10000 .word, t.icacheStale)) =
      some (0xBEEF2211, [(.ram, 0x10000)]) := by decide
/-- R264. -/
theorem test_sw :
    after (.sw 2 4 1) (withM0 [(1, 0x80010000), (2, 0xDEADBEEF)]) (fun t => (t.mem.readN 0x10004 .word, t.icacheStale)) =
      some (0xDEADBEEF, [(.ram, 0x10004)]) := by decide
/-- R265. -/
theorem test_swl :
    after (.swl 2 1 1) (withM0 [(1, 0x80010000), (2, 0xAABBCCDD)]) (fun t => (t.mem.readN 0x10000 .word, t.icacheStale)) =
      some (0x4433AABB, [(.ram, 0x10000)]) := by decide
/-- R266. -/
theorem test_swr :
    after (.swr 2 1 1) (withM0 [(1, 0x80010000), (2, 0xAABBCCDD)]) (fun t => (t.mem.readN 0x10000 .word, t.icacheStale)) =
      some (0xBBCCDD11, [(.ram, 0x10000)]) := by decide
/-- R262: a byte of zeros is stored like any other. -/
theorem test_sb_zero : after (.sb 0 3 1) (withM0 [(1, 0x80010000)]) (fun t => (t.readByte 0x10003, t.mem.length)) = some (0, 8) := by decide
/-- R76. -/
theorem test_sw_bios : stop (.sw 2 0 1) (start [(1, 0xBFC00000)]) = some .deviceContractViolation := by decide
/-- R84, R95: a discarded store clears the marks of its line. -/
theorem test_sw_isolated :
    after (.sw 0 0 1) { access 0x00010000 0x00000010 with icacheStale := [(.ram, 0x10), (.ram, 0x20), (.ram, 0x1018)] }
      (fun t => (t.icacheStale, t.mem)) = some ([(.ram, 0x20)], []) := by decide
/-- R254. -/
theorem test_swl_device : refusal (.swl 2 0 1) (start [(1, 0x1F801000)]) = some .partialStoreToDevice := by decide
/-- R83, R84, R96. -/
theorem test_access_refusals :
    refusal (.lw 2 0 1) (access 0x02000002 0) = some .reverseEndian ∧
    refusal (.lw 2 0 1) (access 0x00010000 0) = some .isolatedCacheLoad ∧
    refusal (.lw 2 0 1) (access 0 0xBF800000) = some .scratchpadAlias := by decide
/-- R69: no region, and BadVaddr keeps its value. -/
theorem test_lw_unmapped :
    after (.lw 2 0 1) { start [(1, 0x80800000)] with badVaddr := 0x55 } (fun t => (t.badVaddr, t.pc)) =
      some (0x55, 0x80000080) := by decide

/-- R291. -/
theorem test_syscall : after (.syscall 1) (start []) (fun t => (t.epc, t.pc)) = some (0x80001000, 0x80000080) := by decide
/-- R292, R331, R335: in a delay slot, with SR.BEV = 1. -/
theorem test_brk :
    after (.brk 7) { start [] with sr := 0x00400003, pendingBranch := some ⟨true, 0x80002000, 0x80000FFC⟩ }
      (fun t => (t.epc, t.pc, t.sr, t.pendingBranch)) = some (0x80000FFC, 0xBFC00180, 0x0040000C, none) := by decide
/-- R145: the carried-in load completes. -/
theorem test_exception_load :
    after (.syscall 0) { start [] with pendingLoad := some ⟨3, 0xCAFE⟩ } (fun t => (t.readReg 3, t.pendingLoad)) =
      some (0xCAFE, none) := by decide
/-- R332: ExcCode of Sys. -/
theorem test_syscall_code : (takeException .sys (start [])).cause.extractLsb' 2 5 = 8 := (takeException_taken ..).code
/-- R296: Cause of CpU, in full. -/
theorem test_cpu_cause : after (.cop2 0) (start []) (·.cause) = some 0x2000002C := by decide
/-- R293. -/
theorem test_mfc0 :
    after (.mfc0 2 12) { start [] with sr := 0x00400000 } (·.pendingLoad) = some (some ⟨2, 0x00400000⟩) ∧
    refusal (.mfc0 2 3) (start []) = some .cop0RegisterUnmodelled := by decide
/-- R293, R296: in user mode. -/
theorem test_mfc0_user : after (.mfc0 2 12) (access 2 0) (fun t => (t.cause, t.sr)) = some (0x0000002C, 0x00000008) := by decide
/-- R295. -/
theorem test_mtc0 :
    after (.mtc0 2 12) (start [(2, 0x00000401)]) (·.sr) = some 0x00000401 ∧
    after (.mtc0 2 13) (start [(2, 0xFFFFFFFF)]) (·.cause) = some 0x00000300 := by decide
/-- R295. -/
theorem test_mtc0_breakpoint :
    refusal (.mtc0 2 7) (start [(2, 1)]) = some .cop0RegisterUnmodelled ∧
    after (.mtc0 0 7) (start []) (·.pc) = some 0x80001004 := by decide
/-- R294. -/
theorem test_rfe : after .rfe { start [] with sr := 0x0000003C } (·.sr) = some 0x0000003F := by decide
/-- R297. -/
theorem test_cop2 : refusal (.cop2 0) (access 0x40000000 0) = some .cop2OutOfScope := by decide
/-- R297. -/
theorem test_cop1_cop3 :
    after (.cop1 0) (start []) (·.cause) = some 0x1000002C ∧ after (.cop3 0) (start []) (·.cause) = some 0x3000002C := by decide
/-- R298. -/
theorem test_lwc :
    refusal (.lwc0 2 0 1) (start []) = some .cop0LoadStore ∧ after (.lwc1 2 0 1) (start []) (·.cause) = some 0x1000002C ∧
    after (.lwc2 2 0 1) (start []) (·.cause) = some 0x2000002C ∧
    after (.lwc3 2 0 1) (start []) (·.cause) = some 0x3000002C := by decide
/-- R298. -/
theorem test_swc :
    refusal (.swc0 2 0 1) (start []) = some .cop0LoadStore ∧ after (.swc1 2 0 1) (start []) (·.cause) = some 0x1000002C ∧
    after (.swc2 2 0 1) (start []) (·.cause) = some 0x2000002C ∧
    after (.swc3 2 0 1) (start []) (·.cause) = some 0x3000002C := by decide

/-! ## Single steps -/

/-- A field of the state after one step. -/
def afterStep {α : Type} (s : State) (f : State → α) : Option α :=
  match step s with
  | .next t => some (f t)
  | .fault _ | .refused _ => none

/-- The step's fault, if it ends in one. -/
def stepFault (s : State) : Option Fault :=
  match step s with
  | .fault f => some f
  | .next _ | .refused _ => none

/-- The step's refusal, if it ends in one. -/
def stepRefusal (s : State) : Option Refusal :=
  match step s with
  | .refused r => some r
  | .next _ | .fault _ => none

/-- R133: the word in memory is fetched, decoded and run. -/
theorem test_step :
    afterStep ((start [(1, 5), (2, 7)]).withFetchWord 32 0x00221820) (fun t => (t.readReg 3, t.pc)) = some (12, 0x80001004) := by
  decide
/-- R111: a reserved word. -/
theorem test_step_reserved :
    afterStep ((start []).withFetchWord 32 0xFC000000) (fun t => (t.epc, t.pc)) = some (0x80001000, 0x80000080) := by decide
/-- R109. -/
theorem test_step_regimm : stepRefusal ((start []).withFetchWord 32 0x04220004) = some .regimmAlias := by decide
/-- 95_test_vectors.md E2. -/
theorem test_step_misaligned :
    afterStep { start [] with pc := 0x80001102 } (fun t => (t.badVaddr, t.epc, t.pc, t.sr)) =
      some (0x80001102, 0x80001102, 0x80000080, 0) := by decide
/-- 95_test_vectors.md P4, step 3. -/
theorem test_step_interrupt :
    afterStep { start [] with pc := 0x8000100C, sr := 0x00000401, intLines := [1] } (fun t => (t.epc, t.sr, t.pc)) =
      some (0x8000100C, 0x00000404, 0x80000080) := by decide
/-- 95_test_vectors.md P4, step 2: the line is high in a delay slot. -/
theorem test_step_delay_slot :
    afterStep ({ start [] with
        pc := 0x80001004
        sr := 0x00000401
        intLines := [1]
        pendingBranch := some ⟨true, 0x8000100C, 0x80001000⟩ }.withFetchWord 32 0x24010007)
      (fun t => (t.readReg 1, t.pc, t.cause)) = some (7, 0x8000100C, 0x00000400) := by decide
/-- R95: through KSEG0 a stored word faults, through KSEG1 it runs. -/
theorem test_step_stale :
    stepFault { start [] with icacheStale := [(.ram, 0x1000)] } = some .staleInstructionFetch ∧
    afterStep { start [] with pc := 0xA0001000, icacheStale := [(.ram, 0x1000)], mem := Memory.writeN [] 0x1000 0 .word } (·.pc) =
      some 0xA0001004 := by decide
/-- R96. -/
theorem test_step_scratch : stepRefusal { start [] with pc := 0x1F800000 } = some .scratchpadAlias := by decide
/-- R51, R371: the reset state, with the lines low. -/
theorem test_step_reset :
    (State.reset.pc, State.reset.sr, State.reset.cause, State.reset.hi, State.reset.lo) = (0xBFC00000, 0x00400000, 0, 0, 0) ∧
    afterStep ({ State.reset with intLines := [0] }.withFetchWord 32 0x3C021234) (fun t => (t.readReg 2, t.pc)) =
      some (0x12340000, 0xBFC00004) := by decide

/-! ## Witnesses: states and operands that meet the hypotheses of the statements, clause by clause -/

/-- The state that an outcome goes on in. -/
def goOn (o : StepOutcome) (s : State) : State :=
  match o with
  | .next t => t
  | .fault _ | .refused _ => s

/-- The outcome is a next state. -/
def goesOn : StepOutcome → Bool
  | .next _ => true
  | .fault _ | .refused _ => false

theorem goesOn_next : ∀ (o : StepOutcome) (s : State), goesOn o = true → o = .next (goOn o s)
  | .next _, _, _ => rfl

/-- The region of RAM. -/
abbrev ramRegion : Region := ⟨.ram, 0, 0x00800000, 0x00200000⟩
/-- The region of SCRATCH. -/
abbrev scratchRegion : Region := ⟨.scratch, 0x1F800000, 0x400, 0x400⟩
/-- The region of BIOS. -/
abbrev biosRegion : Region := ⟨.bios, 0x1FC00000, 0x80000, 0x80000⟩
/-- The region of IO. -/
abbrev ioRegion : Region := ⟨.io, 0x1F801000, 0x1000, 0x1000⟩
/-- The region of CACHECTL. -/
abbrev cacheRegion : Region := ⟨.cacheCtl, 0xFFFE0000, 0x200, 0x200⟩

/-- A word has this primary opcode. -/
abbrev HasOp (w : Word) (op : BitVec 6) : Prop := w.extractLsb' 26 6 = op

/-- The words of a `SpecialRow`, each kind of row below with the fields it leaves open at their ends. -/
theorem witness_SpecialRow : HasOp 0x00000000 0 ∧ (0x00000000#32).extractLsb' 0 6 = 0x00#6 ∧ HasOp 0x03FFFFEB 0 ∧
    (0x03FFFFEB#32).extractLsb' 0 6 = 0x2B#6 := by decide
/-- The words of an `ImmRow`. -/
theorem witness_ImmRow : HasOp 0x20000000 0x08 ∧ HasOp 0x3FFFFFFF 0x0F ∧ HasOp 0xEFFFFFFF 0x3B := by decide
/-- The words of a `RegimmRow`. -/
theorem witness_RegimmRow : HasOp 0x04000000 1 ∧ (0x04000000#32).extractLsb' 16 5 = 0x00#5 ∧ HasOp 0x07F1FFFF 1 ∧
    (0x07F1FFFF#32).extractLsb' 16 5 = 0x11#5 := by decide
/-- The words of a `TargetRow`. -/
theorem witness_TargetRow : HasOp 0x08000000 0x02 ∧ HasOp 0x0FFFFFFF 0x03 ∧ HasOp 0x4FFFFFFF 0x13 := by decide
/-- The words of a `CodeRow`. -/
theorem witness_CodeRow : HasOp 0x0000000C 0 ∧ (0x0000000C#32).extractLsb' 0 6 = 0x0C#6 ∧ HasOp 0x03FFFFCD 0 ∧
    (0x03FFFFCD#32).extractLsb' 0 6 = 0x0D#6 := by decide
/-- The words of a `MoveRow`. -/
theorem witness_MoveRow : HasOp 0x40000000 0x10 ∧ (0x40000000#32).extractLsb' 21 5 = 0x00#5 ∧ HasOp 0x409FFFFF 0x10 ∧
    (0x409FFFFF#32).extractLsb' 21 5 = 0x04#5 := by decide

/-- The exact result `v` fits 32 signed bits. -/
abbrev FitsSigned (v : Int) : Prop := -2 ^ 31 ≤ v ∧ v ≤ 2 ^ 31 - 1

theorem witness_TrappingArithmetic :
    (let s := start [(1, 0x7FFFFFFE), (2, 1)]; FitsSigned ((s.readReg 1).toInt + (s.readReg 2).toInt)) ∧
    (let s := start [(1, 0x7FFFFFFF), (2, 1)]; ¬FitsSigned ((s.readReg 1).toInt + (s.readReg 2).toInt)) ∧
    (let s := start [(1, 0x80000001), (2, 1)]; FitsSigned ((s.readReg 1).toInt - (s.readReg 2).toInt)) ∧
    (let s := start [(1, 0x80000000), (2, 1)]; ¬FitsSigned ((s.readReg 1).toInt - (s.readReg 2).toInt)) ∧
    (let s := start [(1, 0x80000001)]; FitsSigned ((s.readReg 1).toInt + (0xFFFF#16).toInt)) ∧
    (let s := start [(1, 0x80000000)]; ¬FitsSigned ((s.readReg 1).toInt + (0xFFFF#16).toInt)) := by decide +kernel

/-- Multiply, Divide and HiLoMoves: the clauses of `SetsHiLo`. -/
theorem witness_SetsHiLo : (∀ n ∈ [1, 2], 0 < { start [] with hiloAge := n }.hiloAge) ∧ (start []).hiloAge = 0 := by decide +kernel

theorem witness_DivisionLaw : ∃ t u v w,
    let s := start [(1, 0x80000000), (2, 1)];
    s.readReg 2 ≠ 0#32 ∧ ¬(s.readReg 1 = 0x80000000#32 ∧ s.readReg 2 = 0xFFFFFFFF#32) ∧ exec (.div 1 2) s = .next t ∧
      exec (.divu 1 2) s = .next u ∧ exec (.mult 1 2) s = .next v ∧ exec (.multu 1 2) s = .next w :=
  ⟨_, _, _, _, by decide, by decide, rfl, rfl, rfl, rfl⟩

theorem witness_HiLoHazard : ∃ t u v,
    readsHiLo (.mfhi 3) = true ∧ writesHiLo (.mult 1 2) = true ∧ exec (.mfhi 3) (start []) = .next t ∧
      exec (.sll 0 0 0) (sampleInputs t) = .next u ∧ readsHiLo (.sll 0 0 0) = false ∧
      exec (.sll 0 0 0) (sampleInputs u) = .next v :=
  ⟨_, _, _, rfl, rfl, rfl, rfl, rfl, rfl⟩

theorem witness_HiLoAccess : ∃ t, exec (.addiu 2 1 1) (start []) = .next t ∧ writesHiLo (.addiu 2 1 1) = false ∧
    readsHiLo (.addiu 2 1 1) = false := ⟨_, rfl, rfl, rfl⟩

theorem witness_Jumps : (31#5 ≠ 4#5 ∨ 31#5 = 0#5) ∧ (0#5 ≠ 0#5 ∨ 0#5 = 0#5) ∧ 1#5 ≠ 0#5 := by decide +kernel

theorem witness_LinkBranches : 30#5 ≠ 31#5 ∧ 0#5 ≠ 31#5 := by decide +kernel

/-- A taken branch at 0x80001000, the word `w` in its delay slot, and a NOP at its target. -/
def branchThen (w : Word) : State :=
  { start [] with mem := (((Memory.writeN [] 0x1000 0x10000003 .word).writeN 0x1004 w .word).writeN 0x1010 0 .word) }

/-- A branch in the delay slot, taken, and then the delay slot's exception. -/
theorem witness_BranchDelay :
    (let s := branchThen 0x10000003; let t := goOn (step s) s; let u := goOn (step t) t;
      s.pendingBranch = none ∧ step s = .next t ∧ t.pendingBranch = some ⟨true, 0x80001010, 0x80001000⟩ ∧ step t = .next u ∧
        u.pendingBranch = some ⟨true, 0x80001014, 0x80001004⟩ ∧ step u = .next (goOn (step u) u)) ∧
    (let s := branchThen 0x0000000C; let t := goOn (step s) s;
      t.pendingBranch = some ⟨true, 0x80001010, 0x80001000⟩ ∧ afterStep t (fun u => (u.epc, u.pc)) =
        some (0x80001000, 0x80000080)) :=
  ⟨⟨rfl, goesOn_next _ _ (by decide +kernel), by decide +kernel, goesOn_next _ _ (by decide +kernel), by decide +kernel,
    goesOn_next _ _ (by decide +kernel)⟩, by decide +kernel, by decide +kernel⟩

/-- An SR and an address. -/
structure Place where
  sr : Word
  addr : Word

/-- S0 with the SR, and the address in register 1. -/
abbrev At (p : Place) : State := access p.sr p.addr

/-- The effective address of offset 0 from register 1. -/
abbrev Addr (p : Place) : Word := address (At p) 1 0

/-- The checks of a data access, each clause at the ends of its range. Bytes are always aligned, and so is the aligned word of
LWL, LWR, SWL and SWR. -/
abbrev AccessClauses : Prop :=
  (∀ p ∈ ([⟨0, 0x80010001⟩, ⟨0, 0x8001FFFF⟩] : List Place), ¬Aligned .half (Addr p) ∧ ¬Aligned .word (Addr p)) ∧
  ¬Aligned .word (Addr ⟨0, 0x80010002⟩) ∧
  (∀ p ∈ ([⟨2, 0x80000000⟩, ⟨2, 0xFFFFFFFC⟩] : List Place), Aligned .word (Addr p) ∧ Forbidden (At p) (Addr p)) ∧
  (∀ p ∈ ([⟨0x02000002, 0x00000000⟩, ⟨0x02000002, 0x7FFFFFFC⟩] : List Place),
    Aligned .word (Addr p) ∧ ¬Forbidden (At p) (Addr p) ∧ Reversed (At p)) ∧
  (∀ p ∈ ([⟨0x00010000, 0x00000000⟩, ⟨0x00010002, 0x7FFFFFFC⟩] : List Place),
    Aligned .word (Addr p) ∧ ¬Forbidden (At p) (Addr p) ∧ ¬Reversed (At p) ∧ Isolated (At p)) ∧
  (∀ p ∈ ([⟨0, 0x00800000⟩, ⟨0, 0x1EFFFFFC⟩, ⟨0, 0x1F800400⟩, ⟨0, 0x9FC80000⟩, ⟨0, 0xFFFE0200⟩] : List Place),
    Aligned .word (Addr p) ∧ ¬Forbidden (At p) (Addr p) ∧ ¬Reversed (At p) ∧ ¬Isolated (At p) ∧ Unmapped (Addr p)) ∧
  (∀ q ∈ [((⟨0, 0xBF800000⟩ : Place), 0), (⟨0, 0xBF8003FC⟩, 0x3FC)],
    Aligned .word (Addr q.1) ∧ ¬Forbidden (At q.1) (Addr q.1) ∧ ¬Reversed (At q.1) ∧ ¬Isolated (At q.1) ∧
      Reaches (Addr q.1) scratchRegion q.2 ∧ ScratchAlias (Addr q.1) scratchRegion) ∧
  (∀ q ∈ [((⟨0, 0x00000000⟩ : Place), ramRegion, 0), (⟨0, 0x807FFFFC⟩, ramRegion, 0x1FFFFC),
      (⟨2, 0x1F8003FC⟩, scratchRegion, 0x3FC), (⟨0, 0xBFC7FFFC⟩, biosRegion, 0x7FFFC), (⟨0, 0xBF801000⟩, ioRegion, 0),
      (⟨0, 0xFFFE01FC⟩, cacheRegion, 0x1FC)],
    Aligned .word (Addr q.1) ∧ PassesChecks (At q.1) (Addr q.1) q.2.1 q.2.2)

theorem witness_Loads : AccessClauses := by and_intros <;> decide +kernel

/-- The merge base of each form of pending load, and `witness_Loads` for the checks. -/
theorem witness_UnalignedLoads :
    (let a := alignedWord (address (access 0 0x807FFFFF) 1 0);
      Aligned .word a ∧ PassesChecks (access 0 0x807FFFFF) a ramRegion 0x1FFFFC) ∧
    ∀ l ∈ [none, some ⟨2, 7⟩, some ⟨3, 7⟩], ∃ cur : Word, cur = match ({ start [(2, 9)] with pendingLoad := l }).pendingLoad with
      | some l => if l.reg = 2#5 then l.value else (start [(2, 9)]).readReg 2
      | none => (start [(2, 9)]).readReg 2 := ⟨by decide, fun _ _ => ⟨_, rfl⟩⟩

theorem witness_Stores : AccessClauses := witness_Loads

theorem witness_UnalignedStores : AccessClauses ∧
    (let a := alignedWord (address (access 0 0x807FFFFF) 1 0);
      Aligned .word a ∧ PassesChecks (access 0 0x807FFFFF) a ramRegion 0x1FFFFC) :=
  ⟨witness_Loads, by decide +kernel⟩

/-- A load, and after it an instruction that leaves the register alone, and one that loads into it; and a load to register
0. -/
theorem witness_LoadDelay : ∃ t t0,
    let s := withM0 [(1, 0x80010000)];
    exec (.lw 2 0 1) s = .next t ∧ t.pendingLoad = some ⟨2, 0x44332211⟩ ∧ loadDest (.lw 2 0 1) = some 2#5 ∧
      (∃ u, exec (.addu 3 2 2) (sampleInputs t) = .next u ∧ writeDest (.addu 3 2 2) ≠ some 2#5 ∧
        loadDest (.addu 3 2 2) ≠ some 2#5) ∧
      (∃ u m, exec (.lw 2 4 1) (sampleInputs t) = .next u ∧ loadDest (.lw 2 4 1) = some 2#5 ∧ u.pendingLoad = some m) ∧
      exec (.lw 0 0 1) s = .next t0 ∧ t0.pendingLoad = some ⟨0, 0x44332211⟩ ∧ loadDest (.lw 0 0 1) = some 0#5 :=
  ⟨_, _, rfl, by decide, rfl, ⟨_, rfl, by decide, by decide⟩, ⟨_, _, rfl, rfl, rfl⟩, rfl, by decide, rfl⟩

theorem witness_StoreLoadRoundTrip : ∃ t,
    let s := access 0 0x807FFFFC;
    Aligned .word (address s 1 0) ∧ PassesChecks s (address s 1 0) ramRegion 0x1FFFFC ∧
      exec (.sw 1 0 1) s = .next t ∧ address (sampleInputs t) 1 0 = address s 1 0 :=
  ⟨_, by decide, by decide, rfl, by decide⟩

theorem witness_UnalignedLoadPair : ∃ t,
    let s := withM0 [(1, 0x80010001)]; let a := address s 1 0;
    ¬Aligned .word a ∧ IsMemory ramRegion ∧ PassesChecks s a ramRegion 0x10001 ∧ PassesChecks s (a + 3) ramRegion 0x10004 ∧
      HoldsByte s a ramRegion 0x22 ∧ HoldsByte s (a + 1) ramRegion 0x33 ∧ HoldsByte s (a + 2) ramRegion 0x44 ∧
      HoldsByte s (a + 3) ramRegion 0x55 ∧ exec (.lwr 2 0 1) s = .next t ∧ address (sampleInputs t) 1 3 = a + 3 :=
  ⟨_, by decide, by decide, by decide, by decide, ⟨0x10001, by decide, by decide⟩, ⟨0x10002, by decide, by decide⟩,
    ⟨0x10003, by decide, by decide⟩, ⟨0x10004, by decide, by decide⟩, rfl, by decide⟩

theorem witness_UnalignedStorePair : ∃ t,
    let s := withM0 [(1, 0x80010001), (2, 0xAABBCCDD)]; let a := address s 1 0;
    ¬Aligned .word a ∧ PassesChecks s a ramRegion 0x10001 ∧ PassesChecks s (a + 3) ramRegion 0x10004 ∧
      Reaches (a + 1) ramRegion 0x10002 ∧ Reaches (a + 2) ramRegion 0x10003 ∧ exec (.swr 2 0 1) s = .next t ∧
      address (sampleInputs t) 1 3 = a + 3 ∧ (sampleInputs t).readReg 2 = s.readReg 2 :=
  ⟨_, by decide, by decide, by decide, by decide, by decide, rfl, by decide, by decide⟩

theorem witness_OnlyStoresWrite : ∃ t u, exec (.lw 2 0 1) (withM0 [(1, 0x80010000)]) = .next t ∧ isStore (.lw 2 0 1) = false ∧
    exec (.lui 2 1) (start []) = .next u ∧ isStore (.lui 2 1) = false ∧ isLoad (.lui 2 1) = false := ⟨_, _, rfl, rfl, rfl, rfl, rfl⟩

/-- Each segment's first and last address. -/
theorem witness_SegmentFolding :
    (0x00000000#32).toNat < 0x80000000 ∧ (0x7FFFFFFF#32).toNat < 0x80000000 ∧
    0x80000000 ≤ (0x80000000#32).toNat ∧ (0x9FFFFFFF#32).toNat < 0xA0000000 ∧
    0xA0000000 ≤ (0xA0000000#32).toNat ∧ (0xBFFFFFFF#32).toNat < 0xC0000000 ∧
    0xC0000000 ≤ (0xC0000000#32).toNat ∧ 0xC0000000 ≤ (0xFFFFFFFF#32).toNat ∧
    0x20000000 ≤ (0x20000000#32).toNat ∧ 0x20000000 ≤ (0x7FFFFFFF#32).toNat := by decide +kernel

theorem witness_Routing : Reaches 0x807FFFFC ramRegion 0x1FFFFC ∧ Aligned .word 0x807FFFFC ∧ Reaches 0xFFFE01FF cacheRegion 0x1FF ∧
    Aligned .byte 0xFFFE01FF := by decide +kernel

theorem witness_Mirrors : (0x00000000#32).toNat < 0x00200000 ∧ (0x001FFFFF#32).toNat < 0x00200000 := by decide +kernel

/-- Coprocessor 0 is usable: in kernel mode, or with SR.CU0 = 1. -/
abbrev Cop0Usable (sr : Word) : Prop := (access sr 0).sr.getLsbD 1 = false ∨ (access sr 0).sr.getLsbD 28 = true

/-- Usable in kernel mode and in user mode, and not usable. -/
abbrev Cop0Clauses : Prop :=
  Cop0Usable 0 ∧ Cop0Usable 0x10000002 ∧ (access 2 0).sr.getLsbD 1 = true ∧ (access 2 0).sr.getLsbD 28 = false

theorem witness_MoveFromCop0 : Cop0Clauses ∧ 0#5 ∉ [8#5, 12#5, 13#5, 14#5, 15#5] ∧ 31#5 ∉ [8#5, 12#5, 13#5, 14#5, 15#5] := by
  decide +kernel

theorem witness_MoveToCop0 : Cop0Clauses ∧ ¬(12#5 = 7#5 ∧ (start [(1, 5)]).readReg 1 ≠ 0#32) ∧
    ¬(7#5 = 7#5 ∧ (start []).readReg 1 ≠ 0#32) ∧ (start [(1, 5)]).readReg 1 ≠ 0#32 := by decide +kernel

/-- The words and the states of RFE. -/
theorem witness_ReturnFromException : Cop0Clauses ∧
    HasOp 0x42000010 0x10 ∧ (0x42000010#32).getLsbD 25 = true ∧ (0x42000010#32).extractLsb' 0 6 = 0x10#6 ∧
    HasOp 0x43FFFFD0 0x10 ∧ (0x43FFFFD0#32).getLsbD 25 = true ∧ (0x43FFFFD0#32).extractLsb' 0 6 = 0x10#6 := by decide +kernel

/-- The coprocessors 1 to 3 not usable and usable, one by one. -/
theorem witness_OtherCoprocessors : ∀ k ∈ [29, 30, 31], (access 0 0).sr.getLsbD k = false ∧
    (access (1 <<< k) 0).sr.getLsbD k = true := by decide +kernel

theorem witness_CoprocessorLoadsStores : ∀ k ∈ [29, 30, 31], (access 0xFFFFFFFF 0).sr.getLsbD k = true ∧
    (access 0x10000000 0).sr.getLsbD k = false := by decide +kernel

/-- The words are each class's first and last. -/
theorem witness_ReservedWords : (∀ p ∈ [(0x50000000#32, 0x14), (0xFFFFFFFF#32, 0x3F)], (p.1.extractLsb' 26 6).toNat = p.2) ∧
    ∀ p ∈ [(0x00000001#32, 0x01), (0x00000029#32, 0x29), (0x0000002C#32, 0x2C), (0x03FFFFFF#32, 0x3F)],
      (p.1.extractLsb' 26 6).toNat = 0 ∧ (p.1.extractLsb' 0 6).toNat = p.2 := by decide +kernel

theorem witness_OtherWords : Cop0Clauses ∧
    (HasOp 0x04020000 1 ∧ (0x04020000#32).extractLsb' 16 5 ∉ [0x00#5, 0x01#5, 0x10#5, 0x11#5]) ∧
    (HasOp 0x07FFFFFF 1 ∧ (0x07FFFFFF#32).extractLsb' 16 5 ∉ [0x00#5, 0x01#5, 0x10#5, 0x11#5]) ∧
    (HasOp 0x40200000 0x10 ∧ (0x40200000#32).getLsbD 25 = false ∧ (0x40200000#32).extractLsb' 21 5 ∉ [0x00#5, 0x04#5]) ∧
    (HasOp 0x41FFFFFF 0x10 ∧ (0x41FFFFFF#32).getLsbD 25 = false ∧ (0x41FFFFFF#32).extractLsb' 21 5 ∉ [0x00#5, 0x04#5]) ∧
    (HasOp 0x42000000 0x10 ∧ (0x42000000#32).getLsbD 25 = true ∧ (0x42000000#32).extractLsb' 0 6 ≠ 0x10#6) ∧
    (HasOp 0x43FFFFFF 0x10 ∧ (0x43FFFFFF#32).getLsbD 25 = true ∧ (0x43FFFFFF#32).extractLsb' 0 6 ≠ 0x10#6) := by
  and_intros <;> decide +kernel

theorem witness_StackRoundTrip : TakenException (start []) (takeException .sys (start [])) 8 none none := takeException_taken ..

/-- In user mode: an instruction that goes on, the lowest and the highest address of kernel space, and a fetch from there. -/
theorem witness_PrivilegeLaw : ∃ t,
    let s := access 2 0x80000000;
    s.sr.getLsbD 1 = true ∧ s.sr.getLsbD 28 = false ∧ exec (.addu 3 1 1) s = .next t ∧
      (address s 1 0).getLsbD 31 = true ∧ (address (access 2 0xFFFFFFFF) 1 0).getLsbD 31 = true ∧ s.pc.getLsbD 31 = true ∧
      ¬InterruptTaken s := ⟨_, by decide, by decide, rfl, by decide, by decide, by decide, by decide⟩

theorem witness_StatusWriters : ∃ t u, exec (.mtc0 1 12) (start [(1, 2)]) = .next t ∧ exec .rfe (start []) = .next u :=
  ⟨_, _, rfl, rfl⟩

theorem witness_PreciseExceptions : ∃ t u, exec (.addu 3 1 2) (start []) = .next t ∧ exec (.syscall 0) (start []) = .next u :=
  ⟨_, _, rfl, rfl⟩

theorem witness_StopsOnlyWhereNamed :
    exec (.mult 1 2) { start [] with hiloAge := 2 } = .fault .hiLoHazard ∧
    exec (.sb 2 0 1) (access 0 0xBFC7FFFF) = .fault .deviceContractViolation ∧
    exec (.jalr 1 1) (start []) = .refused .jalrLinkOverwritesTarget ∧
    exec (.lwc2 2 0 1) (access 0x40000000 0) = .refused .cop2OutOfScope := ⟨rfl, rfl, rfl, rfl⟩

/-- The branch of `branchThen` is over and `w` is at pc, in the delay slot, with line 0 high and enabled. -/
def slotWith (w : Word) : State :=
  { branchThen w with pc := 0x80001004, sr := 0x00000401, intLines := [1], pendingBranch := some ⟨true, 0x80001010, 0x80001000⟩ }

theorem witness_Interrupts :
    InterruptTaken { start [] with sr := 0x00000401, intLines := [1] } ∧
    InterruptTaken { start [] with sr := 0x00008001, intLines := [0x20] } ∧
    (let s := slotWith 0x24010007;
      s.pendingBranch ≠ none ∧ PassesFetch s ramRegion 0x1004 ∧ IsMemory ramRegion ∧
        decode (wordAt s 0x1004) = .ok (.addiu 1 0 7)) := by decide +kernel

theorem witness_SampledInputs : (start []).intLines = 0 :: [0, 0, 0] := rfl

theorem witness_StepRunsDecoded :
    let s := branchThen 0;
    ¬InterruptTaken s ∧ PassesFetch s ramRegion 0x1000 ∧ IsMemory ramRegion ∧
      decode (wordOfBytes (s.readByte 0x1000) (s.readByte 0x1001) (s.readByte 0x1002) (s.readByte 0x1003)) =
        .ok (.beq 0 0 3) := by decide +kernel

/-- S0 with an SR, at a pc, with a stale mark at 0x1000. -/
def FetchAt (p : Place) : State := { start [] with pc := p.addr, sr := p.sr, icacheStale := [(.ram, 0x1000)] }

/-- The clauses of the fetch, each at the ends of its range. -/
theorem witness_FetchRule :
    (∀ p ∈ ([⟨0, 0x80001001⟩, ⟨0, 0x80001003⟩] : List Place), ¬InterruptTaken (FetchAt p) ∧ ¬Aligned .word p.addr) ∧
    (∀ p ∈ ([⟨2, 0x80000000⟩, ⟨2, 0xFFFFFFFC⟩] : List Place),
      ¬InterruptTaken (FetchAt p) ∧ Aligned .word p.addr ∧ Forbidden (FetchAt p) p.addr) ∧
    (∀ p ∈ ([⟨0x02000002, 0⟩, ⟨0x02000002, 0x7FFFFFFC⟩] : List Place),
      ¬InterruptTaken (FetchAt p) ∧ Aligned .word p.addr ∧ ¬Forbidden (FetchAt p) p.addr ∧ Reversed (FetchAt p)) ∧
    (∀ p ∈ ([⟨0, 0x00800000⟩, ⟨0, 0xFFFE0200⟩] : List Place), ¬InterruptTaken (FetchAt p) ∧ Aligned .word p.addr ∧
      ¬Forbidden (FetchAt p) p.addr ∧ ¬Reversed (FetchAt p) ∧ Unmapped p.addr) ∧
    (∀ q ∈ [((⟨0, 0x1F800000⟩ : Place), 0), (⟨0, 0xBF8003FC⟩, 0x3FC)], ¬InterruptTaken (FetchAt q.1) ∧
      Aligned .word q.1.addr ∧ ¬Forbidden (FetchAt q.1) q.1.addr ∧ ¬Reversed (FetchAt q.1) ∧ Reaches q.1.addr scratchRegion q.2) ∧
    (∀ p ∈ ([⟨0, 0x00001000⟩, ⟨0, 0x80001000⟩] : List Place), ¬InterruptTaken (FetchAt p) ∧ Aligned .word p.addr ∧ ¬Forbidden (FetchAt p) p.addr ∧
      ¬Reversed (FetchAt p) ∧ Reaches p.addr ramRegion 0x1000 ∧ p.addr.extractLsb' 29 3 ≤ 4#3 ∧
      (Device.ram, 0x1000) ∈ (FetchAt p).icacheStale) ∧
    (∀ q ∈ [((⟨0x00010000, 0xA0001000⟩ : Place), ramRegion, 0x1000), (⟨0, 0xBFC7FFFC⟩, biosRegion, 0x7FFFC),
        (⟨0, 0xBF801000⟩, ioRegion, 0)],
      ¬InterruptTaken (FetchAt q.1) ∧ PassesFetch (FetchAt q.1) q.2.1 q.2.2) := by and_intros <;> decide +kernel

theorem witness_PlacedWordRuns :
    ∀ q ∈ [((⟨0, 0x80001000⟩ : Place), ramRegion, 0x1000), (⟨0, 0xBFC7FFFC⟩, biosRegion, 0x7FFFC)],
      ¬InterruptTaken (FetchAt q.1) ∧ Aligned .word q.1.addr ∧ ¬Forbidden (FetchAt q.1) q.1.addr ∧
        ¬Reversed (FetchAt q.1) ∧ Reaches q.1.addr q.2.1 q.2.2 ∧ (q.2.1.device = .ram ∨ q.2.1.device = .bios) := by
  decide +kernel

theorem witness_DecoderFollowsTable : decode 0x00221820 = .ok (.add 3 1 2) ∧ decode 0xFC000000 = .error .reserved ∧
    (Instr.row (.add 0 0 0)).fits 0x00221820 = true := by decide +kernel

/-- The firmware whose first word is a NOP. -/
def withNop : State := { State.reset with mem := Memory.writeN [] 0x1FC00000 0 .word }

theorem witness_FirstStepAfterReset :
    decode (wordAt withNop 0x1FC00000) = .ok (.sll 0 0 0) ∧
    TakenException (sampleInputs withNop.hostReset) (takeException .sys (sampleInputs withNop.hostReset)) 8 none none :=
  ⟨by decide, takeException_taken ..⟩

/-- Images that are too long, of the longest length and of one byte, and one whose first four bytes are an instruction. -/
theorem witness_PowerOn :
    0x80000 < (List.replicate 0x80001 (0 : Byte)).length ∧ (List.replicate 0x80000 (0 : Byte)).length ≤ 0x80000 ∧
    [(7 : Byte)] ≠ [] ∧ [(7 : Byte)].length ≤ 0x80000 ∧ decode (wordOfBytes 0x20 0x18 0x22 0x00) = .ok (.add 3 1 2) := by
  refine ⟨?_, ?_, by decide, by decide, by decide⟩
  · rw [List.length_replicate]; decide
  · rw [List.length_replicate]

/-- R375: without firmware there is no state; with it, the image's first bytes are at the entry. -/
theorem test_powerOn :
    State.powerOn [] [] = none ∧
    (State.powerOn [0x34, 0x12, 0x02, 0x3C] [0]).map (fun s => afterStep s (fun t => (t.readReg 2, t.pc))) =
      some (some (0x12340000, 0xBFC00004)) := by decide

/-- The invariant in a state with three listed words. -/
theorem witness_StepKeepsInvariant : CoreInv (branchThen 0) ∧ ∃ t, step (branchThen 0) = .next t :=
  ⟨⟨by decide, by decide, by decide, by decide, by decide, by decide, by decide, by decide, by decide, fun _ h => nomatch h⟩,
    goOn (step (branchThen 0)) (branchThen 0), goesOn_next _ _ (by decide)⟩

theorem witness_ResetInvariant : CoreInv (branchThen 0) := witness_StepKeepsInvariant.1

theorem witness_FirmwareNeverChanges : (∃ t, step (branchThen 0) = .next t) ∧ firmwareCell 0x1FC00000 = true ∧
    firmwareCell 0x1FC7FFFF = true := ⟨witness_StepKeepsInvariant.2, by decide, by decide⟩

end Sys2Proof.Tests
end

section
/-! SUPPORT. What a step leaves between two steps (10_state.md): what an access leaves unchanged, where an aligned access lies in
its device, that HI and LO are read by MFHI and MFLO only, and that each part of a step keeps the invariant of a run. -/

namespace Sys2Proof.Machine

open Sys2Proof.Safety

/-! ## What an access leaves unchanged -/

/-- An access changes memory, the stale marks and the operations of the external devices, and nothing else. -/
theorem Access.frame {i : Instr} {s u : State} (h : Access i s u) :
    u = { s with mem := u.mem, icacheStale := u.icacheStale, busLog := u.busLog } := by
  cases h <;> rfl

theorem Access.hi_eq {i : Instr} {s u : State} (h : Access i s u) : u.hi = s.hi := by rw [h.frame]

theorem Access.lo_eq {i : Instr} {s u : State} (h : Access i s u) : u.lo = s.lo := by rw [h.frame]

theorem Access.sr_eq {i : Instr} {s u : State} (h : Access i s u) : u.sr = s.sr := by rw [h.frame]

theorem Access.cause_eq {i : Instr} {s u : State} (h : Access i s u) : u.cause = s.cause := by rw [h.frame]

/-! ## Where an aligned access lies (20_memory.md R67 to R70) -/

/-- The router's answer in the terms of the claims. -/
theorem route_reaches {a : Word} {g : Target} (h : route a = some g) : Reaches a g.region g.offset := by
  unfold route at h
  split at h
  · next r hr =>
    obtain rfl := Option.some.inj h
    have hclaims := List.find?_some hr
    simp only [Region.claims, Bool.and_eq_true, decide_eq_true_eq] at hclaims
    exact ⟨List.mem_of_find?_eq_some hr, hclaims.1, hclaims.2, rfl⟩
  · cases h

/-- The low bits of a value as a number. -/
theorem extractLsb'_zero_eq_zero_iff (a : Word) (n : Nat) : a.extractLsb' 0 n = 0#n ↔ a.toNat % 2 ^ n = 0 := by
  rw [← BitVec.toNat_inj]
  simp

theorem misaligned_eq_false_iff (w : Width) (a : Word) : misaligned w a = false ↔ Aligned w a := by
  cases w with
  | byte => simp [misaligned, Aligned, Width.bytes, Nat.mod_one]
  | half => simpa [misaligned, Aligned, Width.bytes] using extractLsb'_zero_eq_zero_iff a 1
  | word => simpa [misaligned, Aligned, Width.bytes] using extractLsb'_zero_eq_zero_iff a 2

/-- Segment folding keeps the two low bits of an address. -/
theorem foldAddress_mod_four (a : Word) : foldAddress a % 4 = a.toNat % 4 := by
  have hmask : (Config.segMask (segment a)).toNat % 4 = 3 := by
    unfold Config.segMask
    split
    · rfl
    · split <;> rfl
  unfold foldAddress
  rw [BitVec.toNat_and, show 4 = 2 ^ 2 from rfl, Nat.and_mod_two_pow, show (2 : Nat) ^ 2 = 4 from rfl, hmask]
  exact (Nat.and_two_pow_sub_one_eq_mod _ 2).trans (Nat.mod_mod _ 4)

theorem width_bytes_dvd_four (w : Width) : w.bytes ∣ 4 := by cases w <;> decide

/-- Every region starts at a word, and its mirror period is a number of words. -/
theorem regionTable_words : ∀ r ∈ Config.regionTable, 4 ∣ r.base ∧ 4 ∣ r.period ∧ 0 < r.period := by decide

/-- An aligned access stays inside the mirror period of its region. -/
theorem aligned_offset_le_period {a : Word} {r : Region} {off : Nat} {w : Width} (h : Reaches a r off) (hal : Aligned w a) :
    off + w.bytes ≤ r.period := by
  obtain ⟨hr, -, -, rfl⟩ := h
  obtain ⟨hbase, hperiod, hpos⟩ := regionTable_words r hr
  have hw := width_bytes_dvd_four w
  have hfold : w.bytes ∣ foldAddress a := by
    have hmod := foldAddress_mod_four a
    rw [← Nat.dvd_mod_iff hw, hmod, Nat.dvd_mod_iff hw]
    exact Nat.dvd_of_mod_eq_zero hal
  have hoff : w.bytes ∣ (foldAddress a - r.base) % r.period :=
    (Nat.dvd_mod_iff (hw.trans hperiod)).2 (Nat.dvd_sub hfold (hw.trans hbase))
  have hlt : (foldAddress a - r.base) % r.period < r.period := Nat.mod_lt _ hpos
  exact Nat.le_of_lt_add_of_dvd (Nat.add_lt_add_right hlt _) (Nat.dvd_add_self_right.2 hoff) (hw.trans hperiod)

theorem isMemory_of_isWritable {d : Device} (h : d.isWritable = true) : d.isMemory = true := by
  cases d with
  | ram | scratch => rfl
  | exp1 | io | exp2 | bios | cacheCtl => cases h

/-- The bytes of an aligned access to a memory device are cells of that device. -/
theorem memoryCell_of_aligned {a : Word} {g : Target} {w : Width} {c : Nat} (hg : route a = some g)
    (hal : misaligned w a = false) (hm : g.device.isMemory = true) (hlow : g.cell ≤ c) (hhigh : c < g.cell + w.bytes) :
    memoryCell c = true := by
  have hreach := route_reaches hg
  have hle := aligned_offset_le_period hreach ((misaligned_eq_false_iff w a).1 hal)
  unfold Target.cell at hlow hhigh
  have hin : g.region.base ≤ c ∧ c < g.region.base + g.region.period := by omega
  exact List.any_eq_true.2 ⟨g.region, hreach.1, by simpa [hin, Target.device] using hm⟩

/-! ## HI and LO are read by MFHI and MFLO only (10_state.md R25) -/

/-- The state with other values of HI and LO. -/
def State.withHiLo (h l : Word) (s : State) : State := { s with hi := h, lo := l }

/-- An outcome with the values of HI and LO forgotten. -/
def forgetHiLo : StepOutcome → StepOutcome
  | .next t => .next (t.withHiLo 0 0)
  | .fault f => .fault f
  | .refused r => .refused r

/-- What an operation answers, through a function of its value. -/
def Res.map {α β : Type} (f : α → β) : Res α → Res β
  | .ok a => .ok (f a)
  | .exc e => .exc e
  | .fault f => .fault f
  | .refuse r => .refuse r

/-- Equal outcomes but for HI and LO: the one state is the other with its values of HI and LO. -/
theorem next_of_forgetHiLo_eq {o : StepOutcome} {t : State} (h : forgetHiLo o = forgetHiLo (.next t)) :
    ∃ u, o = .next u ∧ { u with hi := t.hi, lo := t.lo } = t := by
  cases o with
  | next u =>
    have hut : u.withHiLo 0 0 = t.withHiLo 0 0 := Host.Outcome.next.inj h
    exact ⟨u, rfl, congrArg (fun v => v.withHiLo t.hi t.lo) hut⟩
  | fault f => cases h
  | refused r => cases h

section
variable (h l : Word) (s : State)

@[simp] theorem withHiLo_tick : (s.withHiLo h l).tick = s.tick := rfl
@[simp] theorem withHiLo_busLog : (s.withHiLo h l).busLog = s.busLog := rfl
@[simp] theorem withHiLo_mem : (s.withHiLo h l).mem = s.mem := rfl
@[simp] theorem withHiLo_hiloAge : (s.withHiLo h l).hiloAge = s.hiloAge := rfl
@[simp] theorem withHiLo_readReg (r : RegNum) : (s.withHiLo h l).readReg r = s.readReg r := rfl
@[simp] theorem withHiLo_forbids (a : Word) : (s.withHiLo h l).forbids a = s.forbids a := rfl
@[simp] theorem withHiLo_reversed : (s.withHiLo h l).reversed = s.reversed := rfl
@[simp] theorem withHiLo_isolated : (s.withHiLo h l).isolated = s.isolated := rfl
@[simp] theorem withHiLo_copUsable (z : BitVec 2) : (s.withHiLo h l).copUsable z = s.copUsable z := rfl
@[simp] theorem withHiLo_readCop0 (r : RegNum) : readCop0 (s.withHiLo h l) r = readCop0 s r := rfl
@[simp] theorem withHiLo_stageCop0 (r : RegNum) (v : Word) : stageCop0 (s.withHiLo h l) r v = stageCop0 s r v := rfl

theorem forgetHiLo_complete (e : Staged) : forgetHiLo (complete e (s.withHiLo h l)) = forgetHiLo (complete e s) := rfl

theorem forgetHiLo_raise (e : Exc) : forgetHiLo (raise e (s.withHiLo h l)) = forgetHiLo (raise e s) := rfl

theorem forgetHiLo_writeHiLo (e : Staged) : forgetHiLo (writeHiLo e (s.withHiLo h l)) = forgetHiLo (writeHiLo e s) := by
  by_cases hage : 0 < s.hiloAge
  · simp [writeHiLo, hage]
  · simpa [writeHiLo, hage] using forgetHiLo_complete h l s e

theorem forgetHiLo_completeOrOverflow (o : Bool) (r : RegNum) (v : Word) :
    forgetHiLo (completeOrOverflow o r v (s.withHiLo h l)) = forgetHiLo (completeOrOverflow o r v s) := by
  cases o <;> rfl

theorem forgetHiLo_completeBranchLink (rs : RegNum) (c : Bool) (imm : BitVec 16) :
    forgetHiLo (completeBranchLink rs c imm (s.withHiLo h l)) = forgetHiLo (completeBranchLink rs c imm s) := by
  unfold completeBranchLink
  split <;> rfl

theorem forgetHiLo_whenUsable (z : BitVec 2) {k k' : StepOutcome} (hk : forgetHiLo k = forgetHiLo k') :
    forgetHiLo (whenUsable z (s.withHiLo h l) k) = forgetHiLo (whenUsable z s k') := by
  by_cases husable : s.copUsable z = true
  · simpa [whenUsable, husable] using hk
  · simpa [whenUsable, husable] using forgetHiLo_raise h l s (.cpU z)

theorem forgetHiLo_refuseCop (z : BitVec 2) (r : Refusal) :
    forgetHiLo (refuseCop z r (s.withHiLo h l)) = forgetHiLo (refuseCop z r s) :=
  forgetHiLo_whenUsable h l s z rfl

theorem forgetHiLo_settle {α : Type} (f : α → α) {k k' : α → StepOutcome} (hk : ∀ a, forgetHiLo (k (f a)) = forgetHiLo (k' a))
    (r : Res α) : forgetHiLo ((r.map f).settle (s.withHiLo h l) k) = forgetHiLo (r.settle s k') := by
  cases r with
  | ok a => exact hk a
  | exc e => exact forgetHiLo_raise h l s e
  | fault f => rfl
  | refuse r => rfl

theorem deviceRead_withHiLo (g : Target) (w : Width) :
    deviceRead (s.withHiLo h l) g w = (deviceRead s g w).map (Prod.map id (State.withHiLo h l)) := by
  simp only [deviceRead, withHiLo_tick, withHiLo_busLog]
  split
  · rfl
  · cases Config.deviceAnswer s.tick s.busLog (.read g.device g.offset w) <;> rfl

theorem deviceWrite_withHiLo (g : Target) (w : Width) (v : Word) :
    deviceWrite (s.withHiLo h l) g w v = (deviceWrite s g w v).map (State.withHiLo h l) := by
  simp only [deviceWrite, withHiLo_tick, withHiLo_busLog]
  split
  · rfl
  split
  · rfl
  · cases Config.deviceAnswer s.tick s.busLog (.write g.device g.offset w (cutTo w v)) <;> rfl

theorem memRead_withHiLo (bad a : Word) (w : Width) :
    memRead (s.withHiLo h l) bad a w = (memRead s bad a w).map (Prod.map id (State.withHiLo h l)) := by
  simp only [memRead, withHiLo_forbids, withHiLo_reversed, withHiLo_isolated, deviceRead_withHiLo]
  split_ifs
  iterate 4 rfl
  rcases route a with _ | g
  · rfl
  · dsimp only
    split
    · rfl
    · cases deviceRead s g w <;> rfl

theorem memWrite_withHiLo (a : Word) (w : Width) (v : Word) :
    memWrite (s.withHiLo h l) a w v = (memWrite s a w v).map (State.withHiLo h l) := by
  simp only [memWrite, withHiLo_forbids, withHiLo_reversed, withHiLo_isolated, deviceWrite_withHiLo]
  split_ifs
  iterate 4 rfl
  rcases route a with _ | g
  · rfl
  · dsimp only
    split
    · rfl
    · cases deviceWrite s g w v <;> rfl

theorem memMerge_withHiLo (a : Word) (f : Word → Word) :
    memMerge (s.withHiLo h l) a f = (memMerge s a f).map (State.withHiLo h l) := by
  simp only [memMerge, withHiLo_forbids, withHiLo_reversed, withHiLo_isolated, withHiLo_mem, deviceWrite_withHiLo]
  split_ifs
  iterate 3 rfl
  rcases route (wordAddress a) with _ | g
  · rfl
  · dsimp only
    split_ifs
    iterate 2 rfl
    cases deviceWrite s g .word (f (s.mem.readN g.cell .word)) <;> rfl

theorem forgetHiLo_loadInto (rt : RegNum) (bad a : Word) (w : Width) (f : Word → Word) :
    forgetHiLo (loadInto (s.withHiLo h l) rt bad a w f) = forgetHiLo (loadInto s rt bad a w f) := by
  unfold loadInto
  rw [memRead_withHiLo]
  exact forgetHiLo_settle h l s (Prod.map id (State.withHiLo h l)) (fun r => forgetHiLo_complete h l r.2 _) _

theorem forgetHiLo_storeTo (r : Res State) :
    forgetHiLo (storeTo (s.withHiLo h l) (r.map (State.withHiLo h l))) = forgetHiLo (storeTo s r) :=
  forgetHiLo_settle h l s (State.withHiLo h l) (fun u => forgetHiLo_complete h l u {}) r

theorem forgetHiLo_storeAt (rt : RegNum) (imm : BitVec 16) (rs : RegNum) (w : Width) :
    forgetHiLo (storeAt rt imm rs w (s.withHiLo h l)) = forgetHiLo (storeAt rt imm rs w s) := by
  simp only [storeAt, effectiveAddress, withHiLo_readReg, memWrite_withHiLo]
  exact forgetHiLo_storeTo h l s _

theorem forgetHiLo_storeMerge (rt : RegNum) (imm : BitVec 16) (rs : RegNum) (merge : Word → Word → Word → Word) :
    forgetHiLo (storeMerge rt imm rs merge (s.withHiLo h l)) = forgetHiLo (storeMerge rt imm rs merge s) := by
  simp only [storeMerge, effectiveAddress, withHiLo_readReg, memMerge_withHiLo]
  exact forgetHiLo_storeTo h l s _

/-- An instruction other than MFHI and MFLO ends alike whatever HI and LO hold. -/
theorem forgetHiLo_exec {i : Instr} (hi : readsHiLo i = false) :
    forgetHiLo (exec i (s.withHiLo h l)) = forgetHiLo (exec i s) := by
  cases i with
  | sll | srl | sra | sllv | srlv | srav | addu | subu | and | or | xor | nor | slt | sltu | addiu | slti | sltiu | andi
  | ori | xori | lui => exact forgetHiLo_complete h l s _
  | add | sub | addi => exact forgetHiLo_completeOrOverflow h l s _ _ _
  | mult | multu | div | divu | mthi | mtlo => exact forgetHiLo_writeHiLo h l s _
  | mfhi | mflo => cases hi
  | j | jal | jr | beq | bne | blez | bgtz | bltz | bgez => exact forgetHiLo_complete h l s _
  | jalr rd rs =>
    simp only [exec, execJalr]
    split
    · rfl
    · exact forgetHiLo_complete h l s _
  | bltzal | bgezal => exact forgetHiLo_completeBranchLink h l s _ _ _
  | lb | lbu | lh | lhu | lwl | lwr => exact forgetHiLo_loadInto h l s _ _ _ _ _
  | lw => exact forgetHiLo_loadInto h l s _ _ _ _ (fun v => v)
  | sb | sh | sw => exact forgetHiLo_storeAt h l s _ _ _ _
  | swl | swr => exact forgetHiLo_storeMerge h l s _ _ _ _
  | syscall | brk => exact forgetHiLo_raise h l s _
  | mfc0 rt rd =>
    refine forgetHiLo_whenUsable h l s 0 ?_
    rw [withHiLo_readCop0]
    cases readCop0 s rd <;> rfl
  | mtc0 rt rd =>
    refine forgetHiLo_whenUsable h l s 0 ?_
    rw [withHiLo_readReg, withHiLo_stageCop0]
    cases stageCop0 s rd (s.readReg rt) <;> rfl
  | rfe => exact forgetHiLo_whenUsable h l s 0 (forgetHiLo_complete h l s _)
  | cop1 | cop2 | cop3 | lwc1 | lwc2 | lwc3 | swc1 | swc2 | swc3 => exact forgetHiLo_refuseCop h l s _ _
  | lwc0 | swc0 => rfl

end
/-! ## SR after RFE, and the snapshot port -/

/-- RFE keeps bits 31:4 of SR (R294). -/
theorem popStack_high (sr : Word) : (popStack sr).extractLsb' 4 28 = sr.extractLsb' 4 28 := by
  ext i hi
  have : ¬4 + i < 4 := by omega
  simp only [BitVec.getElem_extractLsb', popStack_bit, this, if_false]

/-- The snapshot port returns what each register reads (R21, R52). -/
theorem snapshot_x (s : State) (r : RegNum) : s.snapshot.x[r.toNat]'r.isLt = s.readReg r := by
  show (s.regs.set 0 0)[r.toNat]'r.isLt = getReg s.regs r
  unfold getReg
  by_cases hr : r = 0#5
  · simp [hr]
  · have hne : 0 ≠ r.toNat := fun e => hr (BitVec.eq_of_toNat_eq e.symm)
    simp [hr, hne]

/-! ## Each part of a step keeps the invariant of a run -/

/-- Through a mask `m` that `a` covers and `b` misses, merging `y` under `b` into `x` under `a` is not seen. -/
theorem merge_and_mask (x y a b m : Word) (ha : a &&& m = m) (hb : b &&& m = 0) :
    ((x &&& a) ||| (y &&& b)) &&& m = x &&& m := by
  rw [BitVec.and_or_distrib_right, BitVec.and_assoc, BitVec.and_assoc, ha, hb]
  simp

/-- MTC0 to Cause writes bits 9:8 only (R295). -/
theorem stagedCause_rest (old v : Word) :
    ((old &&& 0xFFFFFCFF#32) ||| (v &&& 0x00000300#32)) &&& 0x4FFF0083 = old &&& 0x4FFF0083 :=
  merge_and_mask old v _ _ _ rfl rfl

theorem stagedCause_code (old v : Word) :
    ((old &&& 0xFFFFFCFF#32) ||| (v &&& 0x00000300#32)).extractLsb' 2 5 = old.extractLsb' 2 5 := by
  ext i hi
  simp only [BitVec.getElem_extractLsb', BitVec.getLsbD_or, BitVec.getLsbD_and]
  interval_cases i <;> simp

/-- Every exception has a code of R320. -/
theorem writtenCode_code (e : Exc) : writtenCode e.code = true := by cases e <;> rfl

theorem sampleInputs_coreInv {s : State} (h : CoreInv s) : CoreInv (sampleInputs s) :=
  { h with
    causeRest := (causeWithLines_rest s.cause s.lines).trans h.causeRest
    causeCode := (congrArg writtenCode (causeWithLines_code s.cause s.lines)).trans h.causeCode }

theorem logBus_coreInv (op : BusOp) {s : State} (h : CoreInv s) : CoreInv (logBus op s) := { h with }

theorem fetched_coreInv {s u : State} (hu : Fetched s u) (h : CoreInv s) : CoreInv u := by
  rcases hu with rfl | ⟨op, rfl⟩
  · exact h
  · exact logBus_coreInv op h

theorem fetched_pc {s u : State} (hu : Fetched s u) : u.pc = s.pc := by
  rcases hu with rfl | ⟨op, rfl⟩ <;> rfl

theorem takeException_coreInv (e : Exc) {s : State} (h : CoreInv s) : CoreInv (takeException e s) :=
  { h with
    zero := (takeException_storage_zero e s).trans h.zero
    nextPc := rfl
    age := (Nat.sub_le _ _).trans h.age
    causeRest := causeAtEntry_rest ..
    causeCode := (congrArg writtenCode (causeAtEntry_code ..)).trans (writtenCode_code e)
    origin := fun _ hb => nomatch hb }

theorem invalidateLine_coreInv (a : Word) {s : State} (h : CoreInv s) : CoreInv (invalidateLine a s) :=
  { h with
    marks := h.marks.filter _
    markWords := fun m hm => h.markWords m (List.mem_filter.1 hm).1 }

/-- A mark is a word offset. -/
theorem markOf_word (g : Target) : (markOf g).2 % 4 = 0 := Nat.mul_mod_left _ 4

theorem noteStore_coreInv (g : Target) {s : State} (h : CoreInv s) : CoreInv (noteStore g s) :=
  { h with
    marks := insertMark_rising _ h.marks
    markWords := fun m hm => by
      rcases (mem_insertMark (markOf g) m s.icacheStale).1 hm with rfl | hm
      · exact markOf_word g
      · exact h.markWords m hm }

/-- An aligned write to a memory device keeps the memory's form and extent. -/
theorem setMem_writeN_coreInv {a : Word} {w : Width} {g : Target} (v : Word) {s : State} (hal : misaligned w a = false)
    (hg : route a = some g) (hm : g.device.isMemory = true) (h : CoreInv s) :
    CoreInv (setMem (s.mem.writeN g.cell v w) s) :=
  { h with
    memory := Memory.writeN_wf h.memory ..
    mapped := fun c hc => by
      rcases Memory.mem_writeN hc with ⟨hlow, hhigh⟩ | hc
      · exact memoryCell_of_aligned hg hal hm hlow hhigh
      · exact h.mapped c hc }

theorem Access.coreInv {i : Instr} {s u : State} (hu : Access i s u) (h : CoreInv s) : CoreInv u := by
  cases hu with
  | none => exact h
  | busRead op => exact logBus_coreInv op h
  | discarded a => exact invalidateLine_coreInv a h
  | stored a w v g _ hal hg hw =>
    exact noteStore_coreInv g (setMem_writeN_coreInv v hal hg (isMemory_of_isWritable hw) h)
  | busWrite op g => exact noteStore_coreInv g (logBus_coreInv op h)

/-- The commit of what an instruction may stage, at a word-aligned address. -/
theorem commit_coreInv {e : Staged} {i : Instr} {s u : State} (he : e.lawful i s) (hcause : u.cause = s.cause)
    (hpc : s.pc.extractLsb' 0 2 = 0) (h : CoreInv u) : CoreInv (commit e u) := by
  have hstaged : (commit e u).cause &&& 0x4FFF0083 = u.cause &&& 0x4FFF0083
      ∧ (commit e u).cause.extractLsb' 2 5 = u.cause.extractLsb' 2 5 := by
    rw [commit_cause]
    rcases hc : e.cause with _ | c
    · exact ⟨rfl, rfl⟩
    · obtain ⟨rt, -, rfl⟩ := he.cause c hc
      rw [hcause]
      exact ⟨stagedCause_rest _ _, stagedCause_code _ _⟩
  obtain ⟨hrest, hcode⟩ := hstaged
  exact
    { h with
      zero := (commit_storage_zero e u).trans h.zero
      nextPc := rfl
      age := by
        have := h.age
        rw [commit_hiloAge]
        split <;> omega
      causeRest := hrest.trans h.causeRest
      causeCode := (congrArg writtenCode hcode).trans h.causeCode
      origin := fun b hb => (congrArg (BitVec.extractLsb' 0 2) (he.origin b hb)).trans hpc }

/-- Every instruction at a word-aligned address keeps the invariant. -/
theorem exec_coreInv {i : Instr} {s t : State} (hpc : s.pc.extractLsb' 0 2 = 0) (h : CoreInv s) (ht : exec i s = .next t) :
    CoreInv t := by
  rcases exec_ends ht with ⟨e, -, rfl⟩ | ⟨e, u, hu, he, rfl⟩
  · exact takeException_coreInv e h
  · exact commit_coreInv he hu.cause_eq hpc (hu.coreInv h)

/-- The reset operation leaves nothing of the state but its memory, its device history and its inputs. -/
theorem hostReset_coreInv {s : State} (hwf : s.mem.wf) (hmapped : ∀ c ∈ s.mem, memoryCell c.1 = true) : CoreInv s.hostReset where
  memory := hwf
  mapped := hmapped
  marks := .nil
  markWords _ hm := nomatch hm
  zero := rfl
  nextPc := rfl
  age := Nat.zero_le 2
  causeRest := show (0 : Word) &&& 0x4FFF0083 = 0 by decide
  causeCode := show writtenCode ((0 : Word).extractLsb' 2 5) = true by decide
  origin _ hb := nomatch hb

/-- The state after power-on is a reset of itself (R370). -/
theorem hostReset_reset : State.reset.hostReset = State.reset := rfl

end Sys2Proof.Machine
end

section
/-! PROOFS. The statements about the state (10_state.md). -/

namespace Sys2Proof.Proofs

open Sys2Proof.Machine Sys2Proof.Safety

/-- Settles O56: the inputs are sampled, then an exception is taken, or an instruction runs whose address the fetch has found to be
aligned. -/
theorem stepKeepsInvariant : Obligations.StepKeepsInvariant := by
  intro s t h ht
  have hs := sampleInputs_coreInv h
  rcases step_next ht with ⟨e, u, hu, rfl⟩ | ⟨w, i, u, hf, hu, -, hexec⟩
  · exact takeException_coreInv e (fetched_coreInv hu hs)
  · have hpc : u.pc.extractLsb' 0 2 = 0 := by
      rw [fetched_pc hu]
      simpa [misaligned] using (fetch_ok hf).1
    exact exec_coreInv hpc (fetched_coreInv hu hs) hexec

/-- Settles O10: by what an instruction may stage, and by an execution that ends alike with HI and LO forgotten. -/
theorem hiLoAccess : Obligations.HiLoAccess := by
  refine ⟨fun i s t ht hw => ?_, fun i s t h l hr ht => ?_⟩
  · rcases exec_ends ht with ⟨e, -, rfl⟩ | ⟨e, u, hu, he, rfl⟩
    · exact ⟨rfl, rfl⟩
    · have hnone : e.hi = none ∧ e.lo = none := by
        by_contra hne
        have := he.hiLo (by tauto)
        simp [hw] at this
      simp [hnone, hu.hi_eq, hu.lo_eq]
  · exact next_of_forgetHiLo_eq (ht ▸ forgetHiLo_exec h l s hr)

/-- Settles O40: by what an instruction may stage for SR, and RFE's pop bit by bit. -/
theorem statusWriters : Obligations.StatusWriters := by
  intro i s t ht
  rcases exec_ends ht with ⟨e, -, rfl⟩ | ⟨e, u, hu, he, rfl⟩
  · exact .inr (.inr (.inr ⟨_, _, _, takeException_taken e s⟩))
  · rw [commit_sr]
    rcases hsr : e.sr with _ | v
    · exact .inl hu.sr_eq
    · rcases he.sr v hsr with ⟨rt, hi, hv⟩ | ⟨hi, rfl⟩
      · exact .inr (.inl ⟨rt, hi, hv⟩)
      · exact .inr (.inr (.inl ⟨hi, popStack_high s.sr⟩))

/-- Settles O44: by the bits of Cause after sampling. -/
theorem sampledInputs : Obligations.SampledInputs := by
  intro s
  refine ⟨fun k _ => causeWithLines_bit s.cause s.lines k, fun l ls hls => ?_, rfl⟩
  simp [State.lines, hls]

/-- Settles O54: register 0 is the entry that the port fills with zero. -/
theorem snapshotPort : Obligations.SnapshotPort := by
  intro s r
  exact ⟨snapshot_x s r, rfl, rfl, rfl, rfl, rfl, rfl, rfl, rfl, rfl⟩

/-- Settles O55: the reset operation keeps the invariant of memory and sets every other field. -/
theorem resetInvariant : Obligations.ResetInvariant :=
  ⟨hostReset_reset ▸ hostReset_coreInv .nil (fun _ hc => nomatch hc),
    fun _ h => hostReset_coreInv h.memory h.mapped⟩

end Sys2Proof.Proofs
end

section
/-! SUPPORT. Where an address leads (20_memory.md R61 to R68): segment folding as arithmetic, and the router's answer. -/

namespace Sys2Proof.Machine

open Sys2Proof.Safety

/-! ## Segment folding (R61, R62) -/

theorem segment_toNat (a : Word) : (segment a).toNat = a.toNat / 0x20000000 := by
  have := a.isLt
  simp only [segment, BitVec.extractLsb'_toNat, Nat.shiftRight_eq_div_pow]
  omega

theorem segment_eq_iff (a : Word) (k : BitVec 3) : segment a = k ↔ a.toNat / 0x20000000 = k.toNat := by
  rw [← BitVec.toNat_inj, segment_toNat]

/-- The physical address as a number: KSEG0 and KSEG1 are the 512 MiB blocks 4 and 5. -/
theorem foldAddress_eq (a : Word) :
    foldAddress a = if a.toNat / 0x20000000 = 4 then a.toNat % 0x80000000
      else if a.toNat / 0x20000000 = 5 then a.toNat % 0x20000000 else a.toNat := by
  have hall : a.toNat % 0x100000000 = a.toNat := Nat.mod_eq_of_lt a.isLt
  have hk : segment a = 4#3 ↔ a.toNat / 0x20000000 = 4 := segment_eq_iff a 4#3
  have hk' : segment a = 5#3 ↔ a.toNat / 0x20000000 = 5 := segment_eq_iff a 5#3
  simp only [foldAddress, Config.segMask, hk, hk', BitVec.toNat_and]
  split_ifs
  · exact Nat.and_two_pow_sub_one_eq_mod _ 31
  · exact Nat.and_two_pow_sub_one_eq_mod _ 29
  · exact (Nat.and_two_pow_sub_one_eq_mod _ 32).trans hall

/-- The low 512 MiB are reached at the same offsets from the starts of KUSEG, KSEG0 and KSEG1. -/
theorem foldAddress_segmentStart {seg p : Word} (hseg : seg ∈ [0x00000000#32, 0x80000000#32, 0xA0000000#32])
    (hp : p.toNat < 0x20000000) : foldAddress (seg + p) = p.toNat := by
  simp only [List.mem_cons, List.not_mem_nil, or_false] at hseg
  rw [foldAddress_eq, BitVec.toNat_add]
  rcases hseg with rfl | rfl | rfl
  all_goals
    simp only [BitVec.toNat_ofNat]
    split_ifs <;> omega

/-! ## The region table and the router (R65 to R68) -/

theorem regionTable_wf : regionTableWf Config.regionTable := by decide

/-- Between the low 512 MiB and CACHECTL there is no region. -/
theorem regionTable_gap : ∀ r ∈ Config.regionTable, r.base + r.window ≤ 0x20000000 ∨ 0xFFFE0000 ≤ r.base := by decide

/-- The writable devices lie below the firmware (R66). -/
theorem regionTable_writable_below_firmware :
    ∀ r ∈ Config.regionTable, r.device.isWritable = true → r.base + r.period ≤ 0x1FC00000 := by decide

/-- An address leads to one place. -/
theorem reaches_unique {a : Word} {r r' : Region} {off off' : Nat} (h : Reaches a r off) (h' : Reaches a r' off') :
    r = r' ∧ off = off' := by
  obtain ⟨hr, hlow, hhigh, rfl⟩ := h
  obtain ⟨hr', hlow', hhigh', rfl⟩ := h'
  have hsymm : Std.Symm Region.disjoint := ⟨fun _ _ => Or.symm⟩
  have heq : r = r' := by
    by_contra hne
    rcases regionTable_wf.2.forall hr hr' hne with h | h <;> omega
  exact ⟨heq, by rw [heq]⟩

/-- An address that leads somewhere is mapped. -/
theorem not_unmapped_of_reaches {a : Word} {r : Region} {off : Nat} (h : Reaches a r off) : ¬Unmapped a := by
  obtain ⟨hr, hlow, hhigh, -⟩ := h
  intro hun
  rcases hun r hr with h | h <;> omega

theorem route_eq_none_iff {a : Word} : route a = none ↔ Unmapped a := by
  have hfind : route a = none ↔ Config.regionTable.find? (fun r => Region.claims r (foldAddress a)) = none := by
    unfold route
    cases Config.regionTable.find? (fun r => Region.claims r (foldAddress a)) <;> simp
  rw [hfind, List.find?_eq_none]
  refine forall₂_congr fun r _ => ?_
  simp only [Region.claims, Bool.and_eq_true, decide_eq_true_eq]
  omega

/-- The router answers the place that the address leads to. -/
theorem route_of_reaches {a : Word} {r : Region} {off : Nat} (h : Reaches a r off) : route a = some ⟨r, off⟩ := by
  rcases hroute : route a with _ | g
  · exact absurd (route_eq_none_iff.1 hroute) (not_unmapped_of_reaches h)
  · obtain ⟨rfl, rfl⟩ := reaches_unique h (route_reaches hroute)
    rfl

end Sys2Proof.Machine
end

section
/-! SUPPORT. What an access and a fetch do past their checks (20_memory.md R78, R79), what an access leaves of memory (R76, R81), and
the words that memory holds (R74, R75), in the terms of the claims. -/

namespace Sys2Proof.Machine

open Sys2Proof.Safety Sys2Proof.Claims

/-! ## The checks of an access, and the kinds of device -/

theorem forbids_iff (s : State) (a : Word) : s.forbids a = true ↔ Forbidden s a := by
  rw [State.forbids, Bool.and_eq_true, BitVec.msb_eq_getLsbD_last]
  exact Iff.rfl

theorem reversed_iff (s : State) : s.reversed = true ↔ Reversed s := by
  rw [State.reversed, Bool.and_eq_true]
  exact Iff.rfl

theorem isolated_iff (s : State) : s.isolated = true ↔ Isolated s := Iff.rfl

theorem scratchAlias_iff (a : Word) (r : Region) (off : Nat) : scratchAlias a ⟨r, off⟩ = true ↔ ScratchAlias a r := by
  rw [scratchAlias, Bool.and_eq_true, decide_eq_true_eq, decide_eq_true_eq]
  exact Iff.rfl

theorem isMemory_iff (r : Region) : r.device.isMemory = true ↔ IsMemory r := by
  unfold IsMemory
  cases r.device <;> decide

theorem isWritable_iff (d : Device) : d.isWritable = true ↔ d = .ram ∨ d = .scratch := by cases d <;> decide

theorem misaligned_iff (w : Width) (a : Word) : misaligned w a = true ↔ ¬Aligned w a := by
  rw [← misaligned_eq_false_iff, Bool.not_eq_false]

theorem deviceRead_memory {r : Region} (h : IsMemory r) (s : State) (off : Nat) (w : Width) :
    deviceRead s ⟨r, off⟩ w = some (s.mem.readN (r.base + off) w, s) :=
  if_pos ((isMemory_iff r).2 h)

theorem deviceRead_external {r : Region} (h : ¬IsMemory r) (s : State) (off : Nat) (w : Width) :
    deviceRead s ⟨r, off⟩ w = (Config.deviceAnswer s.tick s.busLog (.read r.device off w)).map
      fun x => (cutTo w x, logBus (.read r.device off w) s) := by
  rw [← isMemory_iff] at h
  simp only [deviceRead, Target.device, h]
  cases Config.deviceAnswer s.tick s.busLog (.read r.device off w) <;> rfl

theorem deviceWrite_writable {r : Region} (h : r.device = .ram ∨ r.device = .scratch) (s : State) (off : Nat) (w : Width)
    (v : Word) : deviceWrite s ⟨r, off⟩ w v = some (setMem (s.mem.writeN (r.base + off) v w) s) :=
  if_pos ((isWritable_iff r.device).2 h)

/-- A load past its checks reads its device (R78). -/
theorem memRead_of_passesChecks {s : State} {a : Word} {w : Width} {r : Region} {off : Nat} (bad : Word) (hal : Aligned w a)
    (h : PassesChecks s a r off) :
    memRead s bad a w = (deviceRead s ⟨r, off⟩ w).elim (.fault .deviceContractViolation) .ok := by
  obtain ⟨hforbid, hrev, hiso, hreach, halias⟩ := h
  simp only [memRead, (misaligned_eq_false_iff w a).2 hal, forbids_iff, hforbid, reversed_iff, hrev, isolated_iff, hiso,
    route_of_reaches hreach, scratchAlias_iff, halias, Bool.false_eq_true, if_false]
  cases deviceRead s ⟨r, off⟩ w <;> rfl

/-- A store past its checks writes its device (R78) and marks the word stale (R95). -/
theorem memWrite_of_passesChecks {s : State} {a : Word} {w : Width} {r : Region} {off : Nat} (v : Word) (hal : Aligned w a)
    (h : PassesChecks s a r off) :
    memWrite s a w v = (deviceWrite s ⟨r, off⟩ w v).elim (.fault .deviceContractViolation)
      fun u => .ok (noteStore ⟨r, off⟩ u) := by
  obtain ⟨hforbid, hrev, hiso, hreach, halias⟩ := h
  simp only [memWrite, (misaligned_eq_false_iff w a).2 hal, forbids_iff, hforbid, reversed_iff, hrev, isolated_iff, hiso,
    route_of_reaches hreach, scratchAlias_iff, halias, Bool.false_eq_true, if_false]
  cases deviceWrite s ⟨r, off⟩ w v <;> rfl

/-! ## Words of memory (R74, R75) -/

/-- A word is put together again from its bytes. -/
theorem wordOfBytes_extract (v : Word) :
    wordOfBytes (v.extractLsb' 0 8) (v.extractLsb' 8 8) (v.extractLsb' 16 8) (v.extractLsb' 24 8) = v := by
  apply BitVec.eq_of_getLsbD_eq
  intro i hi
  show BitVec.getLsbD (v.extractLsb' 24 8 ++ v.extractLsb' 16 8 ++ v.extractLsb' 8 8 ++ v.extractLsb' 0 8) i = _
  simp only [BitVec.getLsbD_append, BitVec.getLsbD_extractLsb']
  grind

/-- A word just written reads back. -/
theorem Memory.readN_writeN_word (m : Memory) (a : Nat) (v : Word) : (m.writeN a v .word).readN a .word = v := by
  have hbyte (k : Nat) (hk : k < 4) : (m.writeN a v .word).read (a + k) = v.extractLsb' (8 * k) 8 :=
    Memory.read_writeN m a v .word hk
  have hzero : (m.writeN a v .word).read a = v.extractLsb' 0 8 := hbyte 0 (by decide)
  simp only [Memory.readN, hzero, hbyte 1 (by decide), hbyte 2 (by decide), hbyte 3 (by decide)]
  exact wordOfBytes_extract v

/-- A byte below `x`. -/
theorem toNat_append_byte {n : Nat} (x : BitVec n) (b : Byte) : (x ++ b).toNat = b.toNat + 256 * x.toNat := by
  rw [BitVec.toNat_append, ← Nat.shiftLeft_add_eq_or_of_lt b.isLt, Nat.shiftLeft_eq]
  omega

/-- A read of any width is the little-endian value of its bytes (R74). -/
theorem ofNat_bytesAt (s : State) (cell : Nat) (w : Width) :
    BitVec.ofNat 32 (bytesAt s cell w.bytes) = s.mem.readN cell w := by
  apply BitVec.eq_of_toNat_eq
  cases w <;>
    simp only [Width.bytes, bytesAt, State.readByte, Memory.readN, wordOfBytes, toNat_append_byte, BitVec.toNat_ofNat,
      BitVec.toNat_setWidth, Nat.add_assoc, Nat.reduceAdd] <;>
    omega

/-- The instruction word of the claims is the word that the memory reads. -/
theorem wordAt_eq_readN (s : State) (cell : Nat) : wordAt s cell = s.mem.readN cell .word := ofNat_bytesAt s cell .word

/-! ## LW and SW past the checks (44_load_store.md R259, R264) -/

/-- LW from a memory device delivers the word there. -/
theorem exec_lw_memory {s : State} (rt : RegNum) {rs : RegNum} {imm : BitVec 16} {r : Region} {off : Nat}
    (hal : Aligned .word (address s rs imm)) (hpass : PassesChecks s (address s rs imm) r off) (hmem : IsMemory r) :
    exec (.lw rt imm rs) s = .next (commit { load := some ⟨rt, s.mem.readN (r.base + off) .word⟩ } s) := by
  have hread := memRead_of_passesChecks (address s rs imm) hal hpass
  rw [deviceRead_memory hmem] at hread
  exact congrArg (Res.settle s fun p => complete { load := some ⟨rt, p.1⟩ } p.2) hread

/-- SW to RAM or SCRATCH writes the word there. -/
theorem exec_sw_writable {s : State} (rt : RegNum) {rs : RegNum} {imm : BitVec 16} {r : Region} {off : Nat}
    (hal : Aligned .word (address s rs imm)) (hpass : PassesChecks s (address s rs imm) r off)
    (hdev : r.device = .ram ∨ r.device = .scratch) :
    exec (.sw rt imm rs) s =
      .next (commit {} (noteStore ⟨r, off⟩ (setMem (s.mem.writeN (r.base + off) (s.readReg rt) .word) s))) := by
  have hwrite := memWrite_of_passesChecks (s.readReg rt) hal hpass
  rw [deviceWrite_writable hdev] at hwrite
  exact congrArg (storeTo s) hwrite

/-! ## What an access leaves of memory (R81) -/

/-- Only a store changes memory and the stale marks. -/
theorem Access.keeps_of_not_store {i : Instr} {s u : State} (h : Access i s u) (hi : isStore i = false) :
    u.mem = s.mem ∧ u.icacheStale = s.icacheStale := by
  cases h with
  | none | busRead => exact ⟨rfl, rfl⟩
  | discarded _ hs | stored _ _ _ _ hs | busWrite _ _ hs => exact absurd hs (by simp [hi])

/-- Only a load or a store issues an operation. -/
theorem Access.busLog_of_no_access {i : Instr} {s u : State} (h : Access i s u) (hs : isStore i = false)
    (hl : isLoad i = false) : u.busLog = s.busLog := by
  cases h with
  | none | discarded | stored => rfl
  | busRead _ hi => exact absurd hi (by simp [hl])
  | busWrite _ _ hi => exact absurd hi (by simp [hs])

/-- No access changes a byte of the firmware: a store lies in RAM or SCRATCH (R75, R76). -/
theorem Access.keeps_firmware {i : Instr} {s u : State} (h : Access i s u) {c : Nat} (hc : firmwareCell c = true) :
    u.readByte c = s.readByte c := by
  cases h with
  | none | busRead | discarded | busWrite => rfl
  | stored a w v g _ hal hg hw =>
    have hreach := route_reaches hg
    have hbelow := regionTable_writable_below_firmware g.region hreach.1 hw
    have hinside := aligned_offset_le_period hreach ((misaligned_eq_false_iff w a).1 hal)
    have habove : 0x1FC00000 ≤ c := (by simpa [firmwareCell] using hc : 0x1FC00000 ≤ c ∧ c < 0x1FC80000).1
    refine Memory.read_writeN_outside s.mem g.cell v w (.inr ?_)
    show g.region.base + g.offset + w.bytes ≤ c
    omega

theorem exec_keeps_firmware {i : Instr} {s t : State} (h : exec i s = .next t) {c : Nat} (hc : firmwareCell c = true) :
    t.readByte c = s.readByte c := by
  rcases exec_ends h with ⟨e, -, rfl⟩ | ⟨e, u, hu, -, rfl⟩
  · rfl
  · exact hu.keeps_firmware hc

theorem fetched_readByte {s u : State} (h : Fetched s u) (c : Nat) : u.readByte c = s.readByte c := by
  rcases h with rfl | ⟨op, rfl⟩ <;> rfl

/-! ## The interrupt test and the fetch of a step (40_step_cycle.md R130 to R134, 20_memory.md R79) -/

theorem intPending_iff (s : State) : s.intPending = true ↔ InterruptPending s := by
  have hbits : s.cause.extractLsb' 8 8 &&& s.sr.extractLsb' 8 8 = 0#8 ↔
      ∀ k : Fin 8, ¬(s.cause.getLsbD (8 + k) = true ∧ s.sr.getLsbD (8 + k) = true) := by
    constructor
    · intro h k
      have hk := congrArg (fun v => v.getLsbD k) h
      simpa [BitVec.getLsbD_extractLsb'] using hk
    · intro h
      refine BitVec.eq_of_getLsbD_eq fun k hk => ?_
      simpa [BitVec.getLsbD_extractLsb', hk] using h ⟨k, hk⟩
  have hne : (s.cause.extractLsb' 8 8 &&& s.sr.extractLsb' 8 8) ≠ 0 ↔
      ∃ k : Fin 8, s.cause.getLsbD (8 + k) = true ∧ s.sr.getLsbD (8 + k) = true :=
    (not_congr hbits).trans not_forall_not
  rw [State.intPending, Bool.and_eq_true, bne_iff_ne, hne]
  exact Iff.rfl

theorem interruptDue_sampleInputs_iff (s : State) : interruptDue (sampleInputs s) = true ↔ InterruptTaken s := by
  rw [interruptDue, Bool.and_eq_true, intPending_iff, Option.isNone_iff_eq_none, sampleInputs_pendingBranch]

/-- Where no interrupt is taken a step fetches a word and runs it. -/
theorem step_of_fetch {s : State} {res : Res (Word × State)} (h : ¬InterruptTaken s) (hf : fetch (sampleInputs s) = res) :
    step s = res.settle (sampleInputs s) fun p => runWord p.1 p.2 := by
  rw [← interruptDue_sampleInputs_iff] at h
  exact hf ▸ if_neg h

/-- A step whose fetch raises an exception takes it. -/
theorem step_of_fetch_exc {s : State} {e : Exc} (h : ¬InterruptTaken s) (hf : fetch (sampleInputs s) = .exc e) :
    ∃ t, step s = .next t ∧ TakenException (sampleInputs s) t e.code e.reports e.coprocessor :=
  ⟨takeException e (sampleInputs s), step_of_fetch h hf, takeException_taken e _⟩

theorem fetch_misaligned {s : State} (hal : ¬Aligned .word s.pc) : fetch s = .exc (.adEL s.pc) :=
  if_pos ((misaligned_iff .word s.pc).2 hal)

theorem fetch_forbidden {s : State} (hal : Aligned .word s.pc) (hforbid : Forbidden s s.pc) : fetch s = .exc (.adEL s.pc) := by
  simp only [fetch, (misaligned_eq_false_iff .word s.pc).2 hal, (forbids_iff s s.pc).2 hforbid, Bool.false_eq_true,
    if_false, if_true]

section
variable {s : State} (hal : Aligned .word s.pc) (hforbid : ¬Forbidden s s.pc)
include hal hforbid

theorem fetch_reversed (hrev : Reversed s) : fetch s = .refuse .reverseEndian := by
  simp only [fetch, (misaligned_eq_false_iff .word s.pc).2 hal, forbids_iff, hforbid, (reversed_iff s).2 hrev, Bool.false_eq_true,
    if_false, if_true]

theorem fetch_unmapped (hrev : ¬Reversed s) (hun : Unmapped s.pc) : fetch s = .exc .ibe := by
  simp only [fetch, (misaligned_eq_false_iff .word s.pc).2 hal, forbids_iff, hforbid, reversed_iff, hrev, Bool.false_eq_true,
    if_false, route_eq_none_iff.2 hun]

/-- The checks of a fetch from a mapped address: the scratchpad, the stale marks and the device. -/
theorem fetch_of_reaches {r : Region} {off : Nat} (hrev : ¬Reversed s) (hreach : Reaches s.pc r off) :
    fetch s = if r.device = .scratch then .refuse .scratchpadAlias
      else if s.pc.extractLsb' 29 3 ≤ 4#3 ∧ (r.device, off) ∈ s.icacheStale then .fault .staleInstructionFetch
      else (deviceRead s ⟨r, off⟩ .word).elim (.fault .deviceContractViolation) .ok := by
  have hstale : (segment s.pc ≤ 4 && s.icacheStale.contains (r.device, off)) = true ↔
      s.pc.extractLsb' 29 3 ≤ 4#3 ∧ (r.device, off) ∈ s.icacheStale := by
    rw [Bool.and_eq_true, decide_eq_true_eq, List.contains_iff_mem]
    exact Iff.rfl
  simp only [fetch, (misaligned_eq_false_iff .word s.pc).2 hal, forbids_iff, hforbid, reversed_iff, hrev, Bool.false_eq_true,
    if_false, route_of_reaches hreach, Target.device, hstale]
  cases deviceRead s ⟨r, off⟩ .word <;> rfl

end

end Sys2Proof.Machine
end

section
/-! PROOFS. The statements about memory (20_memory.md). -/

namespace Sys2Proof.Proofs

open Sys2Proof.Machine Sys2Proof.Safety Sys2Proof.Claims

/-- Settles O57: a step that ends in a next state took an exception, which keeps memory, or ran an instruction, whose store lies in
RAM or SCRATCH, below the firmware. -/
theorem firmwareNeverChanges : Obligations.FirmwareNeverChanges := by
  intro s t c ht hc
  rcases step_next ht with ⟨e, u, hu, rfl⟩ | ⟨w, i, u, -, hu, -, hexec⟩
  · exact fetched_readByte hu c
  · exact (exec_keeps_firmware hexec hc).trans (fetched_readByte hu c)

/-- Settles O20: SW leaves the word in the memory that the next step reads, and changes nothing that a check of the load looks
at. -/
theorem storeLoadRoundTrip : Obligations.StoreLoadRoundTrip := by
  intro s t rt rs rt' rs' imm imm' r off a hal hpass hdev hexec haddr
  rw [exec_sw_writable rt hal hpass hdev] at hexec
  obtain rfl := Host.Outcome.next.inj hexec
  refine ⟨_, exec_lw_memory rt' (haddr.symm ▸ hal) (haddr.symm ▸ hpass) (hdev.imp_right .inl), ?_⟩
  exact congrArg (fun v => some (PendingLoad.mk rt' v)) (Memory.readN_writeN_word s.mem (r.base + off) (s.readReg rt))

/-- Settles O23: by what the access of an instruction leaves; an exception leaves memory alone. -/
theorem onlyStoresWrite : Obligations.OnlyStoresWrite := by
  intro i s t ht
  rcases exec_ends ht with ⟨e, -, rfl⟩ | ⟨e, u, hu, -, rfl⟩
  · exact ⟨fun _ => ⟨fun _ => rfl, rfl⟩, fun _ _ => rfl⟩
  · refine ⟨fun hs => ?_, fun hs hl => hu.busLog_of_no_access hs hl⟩
    obtain ⟨hmem, hstale⟩ := hu.keeps_of_not_store hs
    exact ⟨fun c => congrArg (Memory.read · c) hmem, hstale⟩

/-- Settles O25: the physical address of each 512 MiB block, and the gap of the region table above the low one. -/
theorem segmentFolding : Obligations.SegmentFolding := by
  intro a
  have hfold := foldAddress_eq a
  have hlt := a.isLt
  refine ⟨fun h => ?_, fun h h' => ?_, fun h h' => ?_, fun h => ?_, fun h h' r hr => ?_⟩
  iterate 4
    rw [hfold]
    split_ifs <;> omega
  · rw [if_neg (by omega), if_neg (by omega)] at hfold
    rcases regionTable_gap r hr with hlow | hhigh <;> omega

/-- Settles O26: the router's answer, the regions' disjointness, and the words of an aligned access. -/
theorem routing : Obligations.Routing := by
  intro a
  refine ⟨?_, fun r off r' off' h h' => reaches_unique h h',
    fun r off w h hal => ⟨not_unmapped_of_reaches h, aligned_offset_le_period h hal⟩⟩
  rcases hroute : route a with _ | g
  · exact .inl ⟨route_eq_none_iff.1 hroute, rfl⟩
  · exact .inr ⟨g.region, g.offset, route_reaches hroute, rfl⟩

/-- Settles O27: each mirror folds to a physical address of main memory's window, and the period of 2 MiB takes the multiple
off. -/
theorem mirrors : Obligations.Mirrors := by
  intro a ha
  refine ⟨⟨.ram, 0, 0x00800000, 0x00200000⟩, rfl, rfl, fun seg hseg k hk => ?_⟩
  have hsum : (a + BitVec.ofNat 32 (0x00200000 * k)).toNat = a.toNat + 0x00200000 * k := by
    rw [BitVec.toNat_add, BitVec.toNat_ofNat]
    omega
  have hfold : foldAddress (seg + a + BitVec.ofNat 32 (0x00200000 * k)) = a.toNat + 0x00200000 * k := by
    rw [BitVec.add_assoc, foldAddress_segmentStart hseg (by omega), hsum]
  have hin : a.toNat + 0x00200000 * k < 0x00800000 := by omega
  refine ⟨by decide, Nat.zero_le _, ?_, ?_⟩ <;> rw [hfold]
  · omega
  · show a.toNat = (a.toNat + 0x00200000 * k - 0) % 0x00200000
    omega

/-- Settles O46: each check of the fetch in its order, in the state whose inputs are sampled. -/
theorem fetchRule : Obligations.FetchRule := by
  intro s hint
  refine ⟨fun hal => step_of_fetch_exc hint (fetch_misaligned hal),
    fun hal hforbid => step_of_fetch_exc hint (fetch_forbidden hal hforbid),
    fun hal hforbid hrev => step_of_fetch hint (fetch_reversed (s := sampleInputs s) hal hforbid hrev),
    fun hal hforbid hrev hun => step_of_fetch_exc hint (fetch_unmapped hal hforbid hrev hun),
    fun r off hal hforbid hrev hreach hscratch => ?_,
    fun r off hal hforbid hrev hreach hscratch hseg hmark => ?_,
    fun r off ⟨hal, hforbid, hrev, hreach, hscratch, hstale⟩ => ?_⟩
  all_goals have hfetch := fetch_of_reaches (s := sampleInputs s) hal hforbid hrev hreach
  · exact step_of_fetch hint (hfetch.trans (if_pos hscratch))
  · exact step_of_fetch hint (hfetch.trans ((if_neg hscratch).trans (if_pos ⟨hseg, hmark⟩)))
  · have hstep := step_of_fetch hint (hfetch.trans ((if_neg hscratch).trans (if_neg hstale)))
    split
    · next hmem =>
      rw [hstep, deviceRead_memory hmem, wordAt_eq_readN]
      rfl
    · next hext =>
      rw [hstep, deviceRead_external hext]
      cases Config.deviceAnswer _ _ (.read r.device off .word) <;> rfl

/-- Settles O24: by evaluation of the table. -/
theorem regionTableWellFormed : Obligations.RegionTableWellFormed := regionTable_wf

/-- Settles O28: by evaluation of the table at the three addresses. -/
theorem fixedAddresses : Obligations.FixedAddresses :=
  ⟨⟨⟨.bios, 0x1FC00000, 0x00080000, 0x00080000⟩, by decide⟩, ⟨⟨.bios, 0x1FC00000, 0x00080000, 0x00080000⟩, by decide⟩,
    ⟨⟨.ram, 0, 0x00800000, 0x00200000⟩, by decide⟩, rfl⟩

end Sys2Proof.Proofs
end

section
/-! SUPPORT. What the decoder answers (30_encoding.md R107 to R111): its groups, and its reserved cells. -/

namespace Sys2Proof

/-! ## The groups of the primary opcode (R107) -/

theorem decode_special {w : Word} (h : opField w = 0#6) : decode w = decodeSpecial w := by
  simp only [decode, h]

theorem decode_regimm {w : Word} (h : opField w = 1#6) : decode w = decodeRegimm w := by
  simp only [decode, h]

theorem decode_cop0 {w : Word} (h : opField w = 0x10#6) : decode w = decodeCop0 w := by
  simp only [decode, h]

@[simp] theorem decode_rType (rs rt rd : RegNum) (shamt : BitVec 5) (funct : BitVec 6) :
    decode (rType rs rt rd shamt funct) = decodeSpecial (rType rs rt rd shamt funct) :=
  decode_special (opField_rType ..)

@[simp] theorem decode_codeType (code : BitVec 20) (funct : BitVec 6) :
    decode (codeType code funct) = decodeSpecial (codeType code funct) :=
  decode_special (opField_codeType ..)

@[simp] theorem decode_iType_regimm (rs rt : RegNum) (imm : BitVec 16) :
    decode (iType 1#6 rs rt imm) = decodeRegimm (iType 1#6 rs rt imm) :=
  decode_regimm (opField_iType ..)

@[simp] theorem decode_moveType (rs rt rd : RegNum) : decode (moveType rs rt rd) = decodeCop0 (moveType rs rt rd) :=
  decode_cop0 (opField_moveType ..)

/-! ## Every instruction's word (R102 to R105, R113) -/

/-- Decoding an encoded word reads back the format's fields, by the group of the instruction. -/
theorem decode_encode (i : Instr) : decode (encode i) = .ok i := by
  cases i with
  | sll | srl | sra | sllv | srlv | srav | add | addu | sub | subu | and | or | xor | nor | slt | sltu | mult | multu | div
  | divu | mfhi | mflo | mthi | mtlo | jr | jalr | syscall | brk => simp [encode, decodeSpecial]
  | bltz | bgez | bltzal | bgezal => simp [encode, decodeRegimm]
  | mfc0 | mtc0 => simp [encode, decodeCop0]
  | rfe => rfl
  | addi | addiu | slti | sltiu | andi | ori | xori | lui | beq | bne | blez | bgtz | lb | lbu | lh | lhu | lw | lwl | lwr
  | sb | sh | sw | swl | swr | lwc0 | lwc1 | lwc2 | lwc3 | swc0 | swc1 | swc2 | swc3 | j | jal | cop1 | cop2 | cop3 =>
    simp [encode, decode]

/-! ## The reserved cells (R107, R108, R111) -/

/-- The primary opcodes whose cell of R107 is RI. -/
def reservedOpcodes : List Nat :=
  [0x14, 0x15, 0x16, 0x17, 0x18, 0x19, 0x1A, 0x1B, 0x1C, 0x1D, 0x1E, 0x1F, 0x27, 0x2C, 0x2D, 0x2F, 0x34, 0x35, 0x36, 0x37,
    0x3C, 0x3D, 0x3E, 0x3F]

/-- The function codes below 0x2C whose cell of R108 is RI. -/
def reservedFuncts : List Nat :=
  [0x01, 0x05, 0x0A, 0x0B, 0x0E, 0x0F, 0x14, 0x15, 0x16, 0x17, 0x1C, 0x1D, 0x1E, 0x1F, 0x28, 0x29]

/-- A reserved opcode is none of the decoder's cells. -/
theorem decode_reserved {w : Word} (h : (opField w).toNat ∈ reservedOpcodes) : decode w = .error .reserved := by
  unfold decode
  split
  on_goal -1 => rfl -- the default arm
  all_goals next hop => exact absurd (hop ▸ h) (by decide)

/-- A reserved function code is none of the decoder's cells in the SPECIAL group. -/
theorem decodeSpecial_reserved {w : Word} (h : (functField w).toNat ∈ reservedFuncts ∨ 0x2C ≤ (functField w).toNat) :
    decodeSpecial w = .error .reserved := by
  unfold decodeSpecial
  split
  on_goal -1 => rfl -- the default arm
  all_goals next hf => exact absurd (hf ▸ h) (by decide)

end Sys2Proof

namespace Sys2Proof.Machine

/-- A word that the decoder rejects as reserved takes RI (R111). -/
theorem runWord_reserved {w : Word} (s : State) (h : decode w = .error .reserved) :
    runWord w s = .next (takeException .ri s) := by
  unfold runWord
  rw [h]
  rfl

end Sys2Proof.Machine
end

section
/-! PROOFS. The statements about the encoding (30_encoding.md). -/

namespace Sys2Proof.Proofs

open Sys2Proof.Machine Sys2Proof.Claims

/-- Settles O48: by the fields of each encoded format, and a word read back from its bytes. -/
theorem decodeEncode : Obligations.DecodeEncode := by
  intro i rest
  have hword := decode_encode i
  exact ⟨hword, by rw [decodeBytes_bytesOfWord, hword]⟩

/-- Settles O35: no decoder cell has a reserved code, and the reserved answer takes RI. -/
theorem reservedWords : Obligations.ReservedWords := by
  intro w s op f hcell
  have hreserved : decode w = .error .reserved := by
    rcases hcell with hop | ⟨hop, hf⟩
    · exact decode_reserved hop
    · exact (decode_special (BitVec.eq_of_toNat_eq hop)).trans (decodeSpecial_reserved hf)
  exact ⟨_, runWord_reserved s hreserved, takeException_taken .ri s⟩

end Sys2Proof.Proofs
end

section
/-! SUPPORT. The step cycle (40_step_cycle.md): what a completed instruction leaves, seen from the state it started in, the load in
its delay slot (R147), the branch of a delay slot (R144, R148), and the instruction that a step runs (R134). -/

namespace Sys2Proof.Machine

open Sys2Proof.Safety Sys2Proof.Claims

/-! ## A register after a step (R139, R140) -/

/-- A register that the step does not write. -/
theorem regAfter_of_not_written {s : State} {write : Option (RegNum × Word)} {load : Option RegNum} {r : RegNum}
    (hw : ∀ v, write ≠ some (r, v)) : regAfter s write load r = if r = 0#5 then 0 else regAfter.unwritten s load r := by
  unfold regAfter
  rcases write with _ | ⟨d, v⟩
  · rfl
  · have hd : r ≠ d := fun h => hw v (h ▸ rfl)
    simp only [hd, if_false]

/-- A register that the step loads into keeps its old value: the new load discards the carried-in one. -/
theorem regAfter_of_loaded {s : State} {write : Option (RegNum × Word)} {r : RegNum} (hw : ∀ v, write ≠ some (r, v)) :
    regAfter s write (some r) r = s.readReg r := by
  rw [regAfter_of_not_written hw]
  split
  · next hr => exact hr ▸ rfl
  · unfold regAfter.unwritten
    cases s.pendingLoad <;> simp

/-- The carried-in load reaches its register, unless the step writes the register or loads into it. -/
theorem regAfter_of_carried {s : State} {write : Option (RegNum × Word)} {load : Option RegNum} {l : PendingLoad}
    (hl : s.pendingLoad = some l) (hw : ∀ v, write ≠ some (l.reg, v)) (hload : load ≠ some l.reg) :
    regAfter s write load l.reg = if l.reg = 0#5 then 0 else l.value := by
  simp only [regAfter_of_not_written hw, regAfter.unwritten, hl, hload, ne_eq, not_false_eq_true, and_self, if_true]

/-! ## A completed instruction (R134 to R142) -/

theorem Access.regAfter_eq {i : Instr} {s u : State} (h : Access i s u) (write : Option (RegNum × Word)) (load : Option RegNum)
    (r : RegNum) : regAfter u write load r = regAfter s write load r := by
  rw [h.frame]
  rfl

theorem Access.fetchAfter_eq {i : Instr} {s u : State} (h : Access i s u) : fetchAfter u = fetchAfter s := by
  rw [h.frame]
  rfl

/-- The commit after an access completes the step of the state before the access. -/
theorem Access.completed {i : Instr} {s u : State} (h : Access i s u) (e : Staged) :
    Completed s (commit e u) e.write e.load e.branch := by
  have hc := commit_completed e u
  exact { regs r := (hc.regs r).trans (h.regAfter_eq ..)
          load := hc.load
          branch := hc.branch
          pc := hc.pc.trans h.fetchAfter_eq
          nextPc := hc.nextPc.trans (congrArg (· + 4) h.fetchAfter_eq) }

/-- An instruction that ends in a next state took an exception, or completed with what its rule lets it stage. -/
theorem exec_excepts_or_completed {i : Instr} {s t : State} (h : exec i s = .next t) :
    (∃ e : Exc, t = takeException e s) ∨ (∃ e : Staged, e.lawful i s ∧ Completed s t e.write e.load e.branch) := by
  rcases exec_ends h with ⟨e, -, rfl⟩ | ⟨e, u, hu, he, rfl⟩
  · exact .inl ⟨e, rfl⟩
  · exact .inr ⟨e, he, hu.completed e⟩

/-! ## The load delay (R147) -/

/-- No instruction both writes a register and loads into one. -/
theorem writeDest_of_loadDest {i : Instr} {r : RegNum} (h : loadDest i = some r) : writeDest i = none := by
  cases i with
  | lb | lbu | lh | lhu | lw | lwl | lwr | mfc0 => rfl
  | _ => exact nomatch h

/-- An instruction that delivers through the delay slot leaves the old value in its target. -/
theorem exec_load_readReg {i : Instr} {s t : State} {r : RegNum} {l : PendingLoad} (h : exec i s = .next t)
    (hi : loadDest i = some r) (hl : t.pendingLoad = some l) : t.readReg r = s.readReg r := by
  rcases exec_excepts_or_completed h with ⟨e, rfl⟩ | ⟨e, he, hc⟩
  · exact nomatch hl
  · have hload : e.load = some l := hc.load.symm.trans hl
    have hreg : l.reg = r := Option.some.inj ((he.load l hload).symm.trans hi)
    have hw (v : Word) : e.write ≠ some (r, v) := fun hv => by
      have hdest := he.write r v hv
      rw [writeDest_of_loadDest hi] at hdest
      cases hdest
    rw [hc.regs, hload, Option.map_some, hreg]
    exact regAfter_of_loaded hw

/-- The carried-in load reaches its register, whether the instruction completes or takes an exception, unless it writes the
register or loads into it. -/
theorem exec_readReg_carried {j : Instr} {t u : State} {l : PendingLoad} (h : exec j t = .next u) (hl : t.pendingLoad = some l)
    (hw : writeDest j ≠ some l.reg) (hd : loadDest j ≠ some l.reg) : u.readReg l.reg = if l.reg = 0#5 then 0 else l.value := by
  rcases exec_excepts_or_completed h with ⟨e, rfl⟩ | ⟨e, he, hc⟩
  · exact (takeException_readReg e t l.reg).trans (regAfter_of_carried hl (by simp) (by simp))
  · refine (hc.regs l.reg).trans (regAfter_of_carried hl (fun v hv => hw (he.write _ v hv)) fun hload => ?_)
    obtain ⟨m, hm, hreg⟩ := Option.map_eq_some_iff.1 hload
    exact hd (hreg ▸ he.load m hm)

/-! ## The branch delay (R144, R148) -/

theorem Fetched.excepts {s u : State} (h : Fetched (sampleInputs s) u) (e : Exc) : Excepts s (takeException e u) := by
  refine ⟨u.busLog, e.code, e.reports, e.coprocessor, ?_⟩
  rcases h with rfl | ⟨op, rfl⟩ <;> exact takeException_taken e _

theorem Fetched.fetchAfter_eq {s u : State} (h : Fetched (sampleInputs s) u) : fetchAfter u = fetchAfter s := by
  rcases h with rfl | ⟨op, rfl⟩ <;> rfl

/-- A step that ends in a next state took an exception, or ends at the address that the carried-in branch decides. -/
theorem step_excepts_or_pc {s t : State} (h : step s = .next t) : Excepts s t ∨ t.pc = fetchAfter s := by
  rcases step_next h with ⟨e, u, hu, rfl⟩ | ⟨w, i, u, -, hu, -, hexec⟩
  · exact .inl (hu.excepts e)
  · rcases exec_excepts_or_completed hexec with ⟨e, rfl⟩ | ⟨e, -, hc⟩
    · exact .inl (hu.excepts e)
    · exact .inr (hc.pc.trans hu.fetchAfter_eq)

theorem pendingBranch_eq_none_of_excepts {s t : State} (h : Excepts s t) : t.pendingBranch = none := by
  obtain ⟨log, code, bad, ce, htaken⟩ := h
  exact htaken.noBranch

theorem fetchAfter_of_no_branch {s : State} (h : s.pendingBranch = none) : fetchAfter s = s.pc + 4 := by
  rw [fetchAfter, h]

theorem fetchAfter_of_taken {s : State} {b : PendingBranch} (h : s.pendingBranch = some b) (htaken : b.taken = true) :
    fetchAfter s = b.target := by
  obtain ⟨taken, target, origin⟩ := b
  obtain rfl : taken = true := htaken
  rw [fetchAfter, h]

/-- An exception in a delay slot records the branch, goes to the vector and ends the branch (R331, R335). -/
theorem excepts_in_delaySlot {s t : State} {b : PendingBranch} (h : Excepts s t) (hb : s.pendingBranch = some b) :
    t.epc = b.origin ∧ t.cause.getLsbD 31 = true ∧ t.pendingBranch = none ∧ t.pc = vectorOf s := by
  obtain ⟨log, code, bad, ce, htaken⟩ := h
  have hepc := htaken.epc
  have hbd := htaken.bd
  simp only [sampleInputs_pendingBranch, hb] at hepc hbd
  exact ⟨hepc, hbd, htaken.noBranch, htaken.pc⟩

/-- A step in the delay slot of a taken branch takes an exception that records the branch, or ends at the target. -/
theorem step_of_taken_branch {s t : State} {b : PendingBranch} (h : step s = .next t) (hb : s.pendingBranch = some b)
    (htaken : b.taken = true) :
    (Excepts s t ∧ t.epc = b.origin ∧ t.cause.getLsbD 31 = true ∧ t.pendingBranch = none ∧ t.pc = vectorOf s) ∨
      t.pc = b.target := by
  rcases step_excepts_or_pc h with hx | hpc
  · exact .inl ⟨hx, excepts_in_delaySlot hx hb⟩
  · exact .inr (hpc.trans (fetchAfter_of_taken hb htaken))

/-! ## The instruction that a step runs (R130, R134) -/

theorem runWord_decoded {w : Word} {i : Instr} (s : State) (h : decode w = .ok i) : runWord w s = exec i s := by
  unfold runWord
  rw [h]

end Sys2Proof.Machine
end

section
/-! PROOFS. The statements about the step cycle (40_step_cycle.md). -/

namespace Sys2Proof.Proofs

open Sys2Proof.Machine Sys2Proof.Safety Sys2Proof.Claims

/-- Settles O14: a step that leaves a pending branch took no exception, and the step in the delay slot of a taken branch, nested or
not, goes to the vector or to the target. -/
theorem branchDelay : Obligations.BranchDelay := by
  intro s t u v b c hs hst hb hbtaken
  refine ⟨?_, fun hint => ?_, fun htu => ?_⟩
  · rcases step_excepts_or_pc hst with hx | hpc
    · exact nomatch hb.symm.trans (pendingBranch_eq_none_of_excepts hx)
    · exact hpc.trans (fetchAfter_of_no_branch hs)
  · exact nomatch hb.symm.trans hint.1
  · exact (step_of_taken_branch htu hb hbtaken).imp_right fun hpc =>
      ⟨hpc, fun hc hctaken huv => step_of_taken_branch huv hc hctaken⟩

/-- Settles O19: the load itself leaves its target alone, and so does a second load into it, which discards the first; any other
instruction but a write of the target lets the loaded value through. -/
theorem loadDelay : Obligations.LoadDelay := by
  intro s t u i j l hi hdest hl
  have hold : t.readReg l.reg = s.readReg l.reg := exec_load_readReg hi hdest hl
  exact ⟨hold, fun hj => ⟨exec_readReg_carried hj hl, fun hjdest m hm => (exec_load_readReg hj hjdest hm).trans hold⟩⟩

/-- Settles O37: each cause's row of exception entry. -/
theorem exceptionEntry : Obligations.ExceptionEntry := by
  intro s a z
  exact ⟨takeException_taken .int s, takeException_taken (.adEL a) s, takeException_taken (.adES a) s,
    takeException_taken .ibe s, takeException_taken .dbe s, takeException_taken .sys s, takeException_taken .bp s,
    takeException_taken .ri s, takeException_taken (.cpU z) s, takeException_taken .ov s⟩

/-- Settles O45: the last clause of the fetch rule gives the word at pc, and it decodes. -/
theorem stepRunsDecoded : Obligations.StepRunsDecoded := by
  intro s r off i hint hpass hmem hdecode
  obtain ⟨-, -, -, -, -, -, hfetch⟩ := fetchRule s hint
  have hstep := hfetch r off hpass
  rw [if_pos hmem, wordAt_eq_readN] at hstep
  exact hstep.trans (runWord_decoded _ hdecode)

end Sys2Proof.Proofs
end

section
/-! SUPPORT. Integer ALU instructions (41_alu.md): rows of the decoder, what a normal write and a raised exception leave, and each
result word as the arithmetic of its rule. -/

namespace Sys2Proof.Machine

open Sys2Proof.Safety Sys2Proof.Claims

/-! ## Rows of the decoder (30_encoding.md R107, R108) -/

theorem specialRow_of_decodeSpecial {f : BitVec 6} {i : RegNum → RegNum → RegNum → BitVec 5 → Instr}
    (h : ∀ w, functField w = f → decodeSpecial w = .ok (i (rsField w) (rtField w) (rdField w) (shamtField w))) :
    SpecialRow f i :=
  fun w hop hf => (decode_special hop).trans (h w hf)

theorem immRow_of_decode {op : BitVec 6} {i : RegNum → RegNum → BitVec 16 → Instr}
    (h : ∀ w, opField w = op → decode w = .ok (i (rsField w) (rtField w) (immField w))) : ImmRow op i :=
  h

/-! ## What a meaning leaves (R160, R161) -/

/-- A commit of staged register writes, loads and branches alone keeps everything but the registers, the program counters and the
delay slots. -/
theorem commit_keepsRest {e : Staged} (s : State) (hhi : e.hi = none) (hlo : e.lo = none) (hsr : e.sr = none)
    (hcause : e.cause = none) (hmoves : e.movesHiLo = false) : KeepsRest s (commit e s) := by
  have hhiLo : KeepsHiLo s (commit e s) := by simp [KeepsHiLo, hhi, hlo]
  have hstatus : KeepsStatus s (commit e s) := by simp [KeepsStatus, hsr, hcause]
  have hage : Ages s (commit e s) := by simp [Ages, hmoves]
  exact ⟨⟨hhiLo, hstatus, ⟨rfl, rfl⟩, ⟨rfl, rfl⟩, hage⟩, fun _ => rfl, rfl, rfl⟩

/-- An instruction whose whole effect is a normal write; `v'` is the written word in the terms of its rule. -/
theorem writes_of_exec {i : Instr} {s : State} {r : RegNum} {v v' : Word} (h : exec i s = completeWrite r v s) (hv : v' = v) :
    Writes i s r v' :=
  hv ▸ ⟨_, h, commit_completed _ s, commit_keepsRest s rfl rfl rfl rfl rfl⟩

/-- An instruction whose whole effect is exception entry. -/
theorem traps_of_exec {i : Instr} {s : State} {e : Exc} (h : exec i s = raise e s) :
    Traps i s e.code e.reports e.coprocessor :=
  ⟨_, h, takeException_taken e s⟩

/-- The range test of R161. -/
theorem outsideSigned_iff (n : Int) : outsideSigned n = true ↔ ¬(-2 ^ 31 ≤ n ∧ n ≤ 2 ^ 31 - 1) := by
  simp only [outsideSigned, Bool.or_eq_true, decide_eq_true_eq]
  omega

/-- An instruction with the exact result `n` writes it where it fits, and takes Ov where it does not. -/
theorem writes_or_traps_of_exec {i : Instr} {s : State} {r : RegNum} {n : Int} {v : Word}
    (h : exec i s = completeOrOverflow (outsideSigned n) r v s) (hv : BitVec.ofInt 32 n = v) :
    ((-2 ^ 31 ≤ n ∧ n ≤ 2 ^ 31 - 1) → Writes i s r (BitVec.ofInt 32 n)) ∧
      (¬(-2 ^ 31 ≤ n ∧ n ≤ 2 ^ 31 - 1) → Traps i s 12 none none) := by
  refine ⟨fun hfits => ?_, fun hout => ?_⟩
  · have hin : ¬outsideSigned n = true := fun hout => (outsideSigned_iff n).1 hout hfits
    exact writes_of_exec (h.trans (if_neg hin)) hv
  · exact traps_of_exec (e := .ov) (h.trans (if_pos ((outsideSigned_iff n).2 hout)))

/-! ## Sums and differences (R161 to R165, R172, R173) -/

theorem ofNat_toNat_add (a b : Word) : BitVec.ofNat 32 (a.toNat + b.toNat) = a + b := by
  rw [BitVec.ofNat_add, BitVec.ofNat_toNat, BitVec.ofNat_toNat, BitVec.setWidth_eq, BitVec.setWidth_eq]

theorem ofInt_toInt_add (a b : Word) : BitVec.ofInt 32 (a.toInt + b.toInt) = a + b := by
  rw [BitVec.ofInt_add, BitVec.ofInt_toInt, BitVec.ofInt_toInt]

theorem ofInt_sub {w : Nat} (m n : Int) : BitVec.ofInt w (m - n) = BitVec.ofInt w m - BitVec.ofInt w n := by
  rw [Int.sub_eq_add_neg, BitVec.ofInt_add, BitVec.ofInt_neg, BitVec.sub_eq_add_neg]

theorem ofInt_toNat_sub (a b : Word) : BitVec.ofInt 32 ((a.toNat : Int) - b.toNat) = a - b := by
  rw [ofInt_sub, BitVec.ofInt_natCast, BitVec.ofInt_natCast, BitVec.ofNat_toNat, BitVec.ofNat_toNat, BitVec.setWidth_eq,
    BitVec.setWidth_eq]

theorem ofInt_toInt_sub (a b : Word) : BitVec.ofInt 32 (a.toInt - b.toInt) = a - b := by
  rw [ofInt_sub, BitVec.ofInt_toInt, BitVec.ofInt_toInt]

/-- The sign-bit test of an overflowing sum (R161). -/
theorem add_outside_iff_msb (a b : Word) :
    ¬(-2 ^ 31 ≤ a.toInt + b.toInt ∧ a.toInt + b.toInt ≤ 2 ^ 31 - 1) ↔ a.msb = b.msb ∧ (a + b).msb ≠ a.msb := by
  have hrange : a.saddOverflow b = true ↔ ¬(-2 ^ 31 ≤ a.toInt + b.toInt ∧ a.toInt + b.toInt ≤ 2 ^ 31 - 1) := by
    simp only [BitVec.saddOverflow, Bool.or_eq_true, decide_eq_true_eq]
    omega
  rw [← hrange, BitVec.saddOverflow_eq]
  simp

/-- The sign-bit test of an overflowing difference (R161). -/
theorem sub_outside_iff_msb (a b : Word) :
    ¬(-2 ^ 31 ≤ a.toInt - b.toInt ∧ a.toInt - b.toInt ≤ 2 ^ 31 - 1) ↔ a.msb ≠ b.msb ∧ (a - b).msb ≠ a.msb := by
  have hrange : a.ssubOverflow b = true ↔ ¬(-2 ^ 31 ≤ a.toInt - b.toInt ∧ a.toInt - b.toInt ≤ 2 ^ 31 - 1) := by
    simp only [BitVec.ssubOverflow, Bool.or_eq_true, decide_eq_true_eq]
    omega
  rw [← hrange, BitVec.ssubOverflow_eq]
  cases a.msb <;> cases b.msb <;> simp

/-! ## Comparisons, logic and immediates (R166 to R171, R173 to R179) -/

theorem boolWord_decide (p : Prop) [Decidable p] : (if p then 1 else 0) = boolWord (decide p) := by
  simp only [boolWord, decide_eq_true_eq]

theorem getLsbD_nor (a b : Word) {k : Nat} (hk : k < 32) :
    (~~~(a ||| b)).getLsbD k = !(a.getLsbD k || b.getLsbD k) := by
  rw [BitVec.getLsbD_not, BitVec.getLsbD_or, decide_eq_true hk, Bool.true_and]

theorem toInt_sext16 (imm : BitVec 16) : (sext16 imm).toInt = imm.toInt :=
  BitVec.toInt_signExtend_of_le (by decide)

theorem getLsbD_zext16 (imm : BitVec 16) {k : Nat} (hk : k < 32) : (zext16 imm).getLsbD k = imm.getLsbD k := by
  rw [zext16, BitVec.getLsbD_setWidth, decide_eq_true hk, Bool.true_and]

theorem ofNat_mul_upper (imm : BitVec 16) : BitVec.ofNat 32 (imm.toNat * 65536) = upper16 imm := by
  apply BitVec.eq_of_toNat_eq
  have hlt : imm.toNat * 65536 < 2 ^ 32 := by omega
  rw [upper16, BitVec.toNat_append, BitVec.toNat_ofNat, BitVec.toNat_zero, Nat.mod_eq_of_lt hlt, Nat.shiftLeft_eq, Nat.or_zero]

/-! ## Shifts (R106, R180 to R185) -/

theorem shiftAmount_eq (v : Word) : shiftAmount v = v.toNat % 32 := by
  rw [shiftAmount, BitVec.extractLsb'_toNat, Nat.shiftRight_zero]

theorem ofNat_mul_pow (v : Word) (n : Nat) : BitVec.ofNat 32 (v.toNat * 2 ^ n) = v <<< n := by
  apply BitVec.eq_of_toNat_eq
  rw [BitVec.toNat_ofNat, BitVec.toNat_shiftLeft, Nat.shiftLeft_eq]

theorem ofNat_div_pow (v : Word) (n : Nat) : BitVec.ofNat 32 (v.toNat / 2 ^ n) = v >>> n := by
  rw [← Nat.shiftRight_eq_div_pow, ← BitVec.toNat_ushiftRight, BitVec.ofNat_toNat, BitVec.setWidth_eq]

theorem ofInt_div_pow (v : Word) (n : Nat) : BitVec.ofInt 32 (v.toInt / 2 ^ n) = v.sshiftRight n := by
  rw [BitVec.sshiftRight_eq, Int.shiftRight_eq_div_pow, Nat.cast_pow, Nat.cast_ofNat]

end Sys2Proof.Machine
end

section
/-! PROOFS. The statements about integer ALU instructions (41_alu.md). -/

namespace Sys2Proof.Proofs

open Sys2Proof.Machine Sys2Proof.Safety Sys2Proof.Claims

/-- Settles O1: each instruction is one normal write, whose word is the rule's. -/
theorem registerAlu : Obligations.RegisterAlu := by
  refine ⟨?_, ?_, ?_, ?_, ?_, ?_, ?_, ?_, fun s rd rs rt => ⟨?_, ?_, ?_, ?_, ?_, ?_, ?_, ?_⟩⟩
  iterate 8 exact specialRow_of_decodeSpecial fun w hf => by simp [decodeSpecial, hf]
  · exact writes_of_exec rfl (ofNat_toNat_add _ _)
  · exact writes_of_exec rfl (ofInt_toNat_sub _ _)
  · exact ⟨_, writes_of_exec rfl rfl, fun _ _ => BitVec.getLsbD_and ..⟩
  · exact ⟨_, writes_of_exec rfl rfl, fun _ _ => BitVec.getLsbD_or⟩
  · exact ⟨_, writes_of_exec rfl rfl, fun _ _ => BitVec.getLsbD_xor⟩
  · exact ⟨_, writes_of_exec rfl rfl, fun _ => getLsbD_nor _ _⟩
  · exact writes_of_exec rfl (boolWord_decide _)
  · exact writes_of_exec rfl (boolWord_decide _)

/-- Settles O2: each instruction is one normal write, whose word is the rule's by what its immediate extends to. -/
theorem immediateAlu : Obligations.ImmediateAlu := by
  refine ⟨?_, ?_, ?_, ?_, ?_, ?_, ?_, fun s rt rs imm => ⟨?_, ?_, ?_, ?_, ?_, ?_, ?_⟩⟩
  iterate 7 exact immRow_of_decode fun w hop => by simp [decode, hop]
  · rw [← toInt_sext16]
    exact writes_of_exec rfl (ofInt_toInt_add _ _)
  · rw [← toInt_sext16]
    exact writes_of_exec rfl (boolWord_decide _)
  · exact writes_of_exec rfl (boolWord_decide _)
  · exact ⟨_, writes_of_exec rfl rfl, fun k hk => by rw [BitVec.getLsbD_and, getLsbD_zext16 imm hk]⟩
  · exact ⟨_, writes_of_exec rfl rfl, fun k hk => by rw [BitVec.getLsbD_or, getLsbD_zext16 imm hk]⟩
  · exact ⟨_, writes_of_exec rfl rfl, fun k hk => by rw [BitVec.getLsbD_xor, getLsbD_zext16 imm hk]⟩
  · exact writes_of_exec rfl (ofNat_mul_upper imm)

/-- Settles O3: each shift is one normal write; the variable shifts have the amount of R106. -/
theorem shifts : Obligations.Shifts := by
  refine ⟨?_, ?_, ?_, ?_, ?_, ?_, fun s rd rt rs shamt => ?_⟩
  iterate 6 exact specialRow_of_decodeSpecial fun w hf => by simp [decodeSpecial, hf]
  rw [← shiftAmount_eq]
  exact ⟨writes_of_exec rfl (ofNat_mul_pow _ _), writes_of_exec rfl (ofNat_div_pow _ _), writes_of_exec rfl (ofInt_div_pow _ _),
    writes_of_exec rfl (ofNat_mul_pow _ _), writes_of_exec rfl (ofNat_div_pow _ _), writes_of_exec rfl (ofInt_div_pow _ _)⟩

/-- Settles O4: each instruction has an exact signed result, which it writes or which is outside the range. -/
theorem trappingArithmetic : Obligations.TrappingArithmetic := by
  refine ⟨?_, ?_, ?_, fun a b => ⟨add_outside_iff_msb a b, sub_outside_iff_msb a b⟩, fun s d rs rt imm => ?_⟩
  iterate 2 exact specialRow_of_decodeSpecial fun w hf => by simp [decodeSpecial, hf]
  · exact immRow_of_decode fun w hop => by simp [decode, hop]
  · obtain ⟨haddFits, haddOut⟩ := writes_or_traps_of_exec (i := .add d rs rt) (s := s) rfl (ofInt_toInt_add _ _)
    obtain ⟨hsubFits, hsubOut⟩ := writes_or_traps_of_exec (i := .sub d rs rt) (s := s) rfl (ofInt_toInt_sub _ _)
    rw [← toInt_sext16]
    exact ⟨haddFits, haddOut, hsubFits, hsubOut, writes_or_traps_of_exec rfl (ofInt_toInt_add _ _)⟩

end Sys2Proof.Proofs
end

section
/-! SUPPORT. Multiply, divide and the HI/LO moves (42_muldiv.md): what the hazard check and a HI/LO move leave, each result as the
arithmetic of its rule, and the HI/LO read age. -/

namespace Sys2Proof.Machine

open Sys2Proof.Safety Sys2Proof.Claims

/-! ## What a meaning leaves (R201, R206) -/

/-- An instruction whose whole effect is a write of HI, LO or both behind the hazard check. -/
theorem setsHiLo_of_exec {i : Instr} {s : State} {hi lo : Option Word} {p : (hi lo : Word) → Prop}
    (h : exec i s = writeHiLo { hi := hi, lo := lo } s) (hp : p (hi.getD s.hi) (lo.getD s.lo)) : SetsHiLo i s p := by
  refine ⟨fun hage => h.trans (if_pos hage), fun hage => ?_⟩
  have hkeeps : KeepsButHiLo s (commit { hi := hi, lo := lo } s) :=
    ⟨⟨rfl, rfl⟩, ⟨rfl, rfl⟩, ⟨rfl, rfl⟩, rfl, fun _ => rfl, rfl, rfl⟩
  exact ⟨_, h.trans (if_neg (by omega)), hp, commit_completed _ s, hkeeps⟩

/-- An instruction that completes has passed the hazard check. -/
theorem hiLo_of_setsHiLo {i : Instr} {s t : State} {p : (hi lo : Word) → Prop} (h : SetsHiLo i s p)
    (ht : exec i s = .next t) : p t.hi t.lo := by
  obtain ⟨hhazard, hcompletes⟩ := h
  rcases Nat.eq_zero_or_pos s.hiloAge with hage | hage
  · obtain ⟨u, hu, hp, -⟩ := hcompletes hage
    cases hu.symm.trans ht
    exact hp
  · cases (hhazard hage).symm.trans ht

/-- An instruction whose whole effect is a normal write that moves HI or LO. -/
theorem readsHiLo_of_exec {i : Instr} {s : State} {r : RegNum} {v : Word}
    (h : exec i s = complete { write := some (r, v), movesHiLo := true } s) : ReadsHiLo i s r v :=
  ⟨_, h, commit_completed _ s, rfl, ⟨rfl, rfl⟩, ⟨rfl, rfl⟩, ⟨rfl, rfl⟩, ⟨rfl, rfl⟩, fun _ => rfl, rfl, rfl⟩

/-! ## Products (R202, R203) -/

/-- The two words of `stageProduct` side by side. -/
theorem hi_append_lo_of_product (p : Int) :
    (BitVec.ofInt 64 p).extractLsb' 32 32 ++ (BitVec.ofInt 64 p).extractLsb' 0 32 = BitVec.ofInt 64 p :=
  BitVec.extractLsb'_append_extractLsb'

theorem toInt_signed_product (a b : Word) : (BitVec.ofInt 64 (a.toInt * b.toInt)).toInt = a.toInt * b.toInt :=
  BitVec.toInt_ofInt_eq_self (by decide) (BitVec.le_toInt_mul_toInt.trans' (by decide))
    (BitVec.toInt_mul_toInt_le.trans_lt (by decide))

theorem toNat_unsigned_product (a b : Word) : (BitVec.ofInt 64 ((a.toNat : Int) * b.toNat)).toNat = a.toNat * b.toNat := by
  rw [← Int.natCast_mul, BitVec.ofInt_natCast, BitVec.toNat_ofNat, Nat.mod_eq_of_lt BitVec.toNat_mul_toNat_lt]

/-! ## Quotients and remainders (R204, R205, R210) -/

section

variable {a b : Word} (hb : b ≠ 0#32)
include hb

/-- The quotient fits 32 bits, but for the one that overflows. -/
theorem toInt_divQuotient (hfits : ¬(a = 0x80000000#32 ∧ b = 0xFFFFFFFF#32)) :
    (divQuotient a b).toInt = a.toInt.tdiv b.toInt := by
  have hsdiv := BitVec.toInt_sdiv_of_ne_or_ne a b (not_and_or.1 hfits)
  rw [divQuotient, if_neg hb, if_neg hfits, ← hsdiv, BitVec.ofInt_toInt]

theorem toInt_divRemainder (hfits : ¬(a = 0x80000000#32 ∧ b = 0xFFFFFFFF#32)) :
    (divRemainder a b).toInt = a.toInt.tmod b.toInt := by
  rw [divRemainder, if_neg hb, if_neg hfits, ← BitVec.toInt_srem, BitVec.ofInt_toInt]

theorem toNat_divuQuotient : (divuQuotient a b).toNat = a.toNat / b.toNat := by
  rw [divuQuotient, if_neg hb, ← BitVec.toNat_udiv, BitVec.ofNat_toNat, BitVec.setWidth_eq]

theorem toNat_divuRemainder : (divuRemainder a b).toNat = a.toNat % b.toNat := by
  rw [divuRemainder, if_neg hb, ← BitVec.toNat_umod, BitVec.ofNat_toNat, BitVec.setWidth_eq]

end

/-- The truncated remainder is 0 or has the sign of the dividend. -/
theorem tmod_eq_zero_or_neg_iff (m n : Int) : m.tmod n = 0 ∨ (m.tmod n < 0 ↔ m < 0) := by
  by_cases hdvd : n ∣ m
  · exact .inl (Int.tmod_eq_zero_of_dvd hdvd)
  · have hsign : (m.tmod n).sign = m.sign := (Int.sign_tmod m n).trans (if_neg hdvd)
    exact .inr (by rw [← Int.sign_eq_neg_one_iff_neg, hsign, Int.sign_eq_neg_one_iff_neg])

/-! ## The HI/LO read age (R146, R201) -/

theorem Access.hiloAge_eq {i : Instr} {s u : State} (h : Access i s u) : u.hiloAge = s.hiloAge := by rw [h.frame]

/-- MFHI and MFLO always complete and set the read age; after every other instruction, an excepting one among them, it falls. -/
theorem exec_hiloAge {i : Instr} {s t : State} (h : exec i s = .next t) :
    t.hiloAge = if readsHiLo i then 2 else s.hiloAge - 1 := by
  by_cases hreads : readsHiLo i = true
  · rw [if_pos hreads]
    cases i with
    | mfhi | mflo => cases h; rfl
    | _ => cases hreads
  · rw [if_neg hreads]
    rcases exec_ends h with ⟨e, -, rfl⟩ | ⟨e, u, hu, he, rfl⟩
    · rfl
    · simp [he.moves, hreads, hu.hiloAge_eq]

/-- The six instructions that write HI or LO make the hazard check, and complete past it. -/
theorem setsHiLo_of_writesHiLo {i : Instr} (h : writesHiLo i = true) (s : State) : SetsHiLo i s fun _ _ => True := by
  cases i with
  | mult | multu | div | divu | mthi | mtlo => exact setsHiLo_of_exec rfl trivial
  | _ => cases h

end Sys2Proof.Machine
end

section
/-! PROOFS. The statements about multiply, divide, HI and LO (42_muldiv.md). -/

namespace Sys2Proof.Proofs

open Sys2Proof.Machine Sys2Proof.Safety Sys2Proof.Claims

/-- Settles O5: HI and LO side by side are the 64-bit word of the product, which the product fits. -/
theorem multiply : Obligations.Multiply := by
  refine ⟨?_, ?_, fun s rs rt => ⟨setsHiLo_of_exec rfl ?_, setsHiLo_of_exec rfl ?_⟩⟩
  iterate 2 exact specialRow_of_decodeSpecial fun w hf => by simp [decodeSpecial, hf]
  · exact (congrArg BitVec.toInt (hi_append_lo_of_product _)).trans (toInt_signed_product _ _)
  · exact (congrArg BitVec.toNat (hi_append_lo_of_product _)).trans (toNat_unsigned_product _ _)

/-- Settles O6: the cases of the rule are the branches of the quotient and of the remainder. -/
theorem divide : Obligations.Divide := by
  refine ⟨?_, ?_, fun s rs rt => ⟨setsHiLo_of_exec rfl ?_, setsHiLo_of_exec rfl ?_⟩⟩
  iterate 2 exact specialRow_of_decodeSpecial fun w hf => by simp [decodeSpecial, hf]
  · split
    · next hb => exact ⟨if_pos hb, if_pos hb⟩
    · next hb =>
      split
      · next hover => exact ⟨(if_neg hb).trans (if_pos hover), (if_neg hb).trans (if_pos hover)⟩
      · next hfits => exact ⟨toInt_divRemainder hb hfits, toInt_divQuotient hb hfits⟩
  · split
    · next hb => exact ⟨if_pos hb, if_pos hb⟩
    · next hb => exact ⟨toNat_divuRemainder hb, toNat_divuQuotient hb⟩

/-- Settles O7, from what the instructions leave in HI and LO (O5, O6). -/
theorem divisionLaw : Obligations.DivisionLaw := by
  intro s t rs rt
  obtain ⟨-, -, hmultiply⟩ := multiply
  obtain ⟨hmult, hmultu⟩ := hmultiply s rs rt
  obtain ⟨-, -, hdivide⟩ := divide
  obtain ⟨hdiv, hdivu⟩ := hdivide s rs rt
  refine ⟨fun hb hfits ht => ?_, fun hb ht => ?_, hiLo_of_setsHiLo hmult, hiLo_of_setsHiLo hmultu⟩
  · have hresult := hiLo_of_setsHiLo hdiv ht
    rw [if_neg hb, if_neg hfits] at hresult
    obtain ⟨hhi, hlo⟩ := hresult
    have hne : (s.readReg rt).toInt ≠ 0 := fun h => hb (BitVec.toInt_inj.1 h)
    rw [hhi, hlo]
    refine ⟨Int.tdiv_mul_add_tmod _ _, ?_, ?_⟩
    · exact (Int.natAbs_tmod _ _).trans_lt (Nat.mod_lt _ (Int.natAbs_pos.2 hne))
    · exact (tmod_eq_zero_or_neg_iff _ _).imp_left fun h => BitVec.toInt_inj.1 (hhi.trans h)
  · have hresult := hiLo_of_setsHiLo hdivu ht
    rw [if_neg hb] at hresult
    obtain ⟨hhi, hlo⟩ := hresult
    have hne : (s.readReg rt).toNat ≠ 0 := fun h => hb (BitVec.toNat_inj.1 h)
    rw [hhi, hlo]
    exact ⟨Nat.div_add_mod' _ _, Nat.mod_lt _ (Nat.pos_of_ne_zero hne)⟩

/-- Settles O8: a move from HI or LO is one normal write, a move to them one write behind the hazard check. -/
theorem hiLoMoves : Obligations.HiLoMoves := by
  refine ⟨?_, ?_, ?_, ?_, fun s r => ⟨readsHiLo_of_exec rfl, readsHiLo_of_exec rfl, ?_, ?_⟩⟩
  iterate 4 exact specialRow_of_decodeSpecial fun w hf => by simp [decodeSpecial, hf]
  · exact setsHiLo_of_exec rfl ⟨rfl, rfl⟩
  · exact setsHiLo_of_exec rfl ⟨rfl, rfl⟩

/-- Settles O9: the read age is 2 after MFHI or MFLO, at least 1 an instruction later, and 0 after two that do not read. -/
theorem hiLoHazard : Obligations.HiLoHazard := by
  intro s t u v m j k w hm hw ht
  have haget : t.hiloAge = 2 := by simpa [hm] using exec_hiloAge ht
  refine ⟨(setsHiLo_of_writesHiLo hw _).1 (by simp [haget]), fun hu => ?_⟩
  have hageu : u.hiloAge = if readsHiLo j then 2 else 1 := by simpa [haget] using exec_hiloAge hu
  refine ⟨(setsHiLo_of_writesHiLo hw _).1 ?_, fun hj hk hv => ?_⟩
  · rw [sampleInputs_hiloAge, hageu]
    split <;> decide
  · have hagev : v.hiloAge = 0 := by simpa [hageu, hj, hk] using exec_hiloAge hv
    obtain ⟨x, hx, -⟩ := (setsHiLo_of_writesHiLo hw (sampleInputs v)).2 hagev
    exact ⟨x, hx⟩

end Sys2Proof.Proofs
end

section
/-! SUPPORT. Branches and jumps (43_branch_jump.md): rows of the decoder, each target as the arithmetic of its rule, and what a
branch leaves. -/

namespace Sys2Proof.Machine

open Sys2Proof.Safety Sys2Proof.Claims

/-! ## Rows of the decoder (30_encoding.md R107, R109) -/

theorem targetRow_of_decode {op : BitVec 6} {i : BitVec 26 → Instr}
    (h : ∀ w, opField w = op → decode w = .ok (i (targetField w))) : TargetRow op i :=
  h

theorem regimmRow_of_decodeRegimm {rt : BitVec 5} {i : RegNum → BitVec 16 → Instr}
    (h : ∀ w, rtField w = rt → decodeRegimm w = .ok (i (rsField w) (immField w))) : RegimmRow rt i :=
  fun w hop hrt => (decode_regimm hop).trans (h w hrt)

/-! ## Targets (R220) -/

/-- `branchTarget` in the integers: the offset is signed and the sum wraps at the ends of the address space. -/
theorem ofInt_branchTarget (pc : Word) (imm : BitVec 16) :
    BitVec.ofInt 32 (pc.toNat + 4 + 4 * imm.toInt) = branchTarget pc imm := by
  have hoffset : BitVec.ofInt 32 (4 * imm.toInt) = sext16 imm <<< 2 := by
    rw [BitVec.shiftLeft_eq_mul_twoPow, BitVec.mul_comm, BitVec.ofInt_mul]
    rfl
  rw [branchTarget, BitVec.ofInt_add, BitVec.ofInt_add, hoffset, BitVec.ofInt_natCast, BitVec.ofNat_toNat, BitVec.setWidth_eq]
  rfl

theorem toNat_append_eq_add {m n : Nat} (x : BitVec m) (y : BitVec n) : (x ++ y).toNat = x.toNat * 2 ^ n + y.toNat := by
  rw [BitVec.toNat_append, ← Nat.shiftLeft_add_eq_or_of_lt y.isLt, Nat.shiftLeft_eq]

/-- `jumpTarget` in the naturals: the upper four bits of `pc + 4` above the target's 28 bits. -/
theorem ofNat_jumpTarget (pc : Word) (target : BitVec 26) :
    BitVec.ofNat 32 ((pc + 4).toNat / 2 ^ 28 * 2 ^ 28 + 4 * target.toNat) = jumpTarget pc target := by
  have hnat : (jumpTarget pc target).toNat = (pc + 4).toNat / 2 ^ 28 * 2 ^ 28 + 4 * target.toNat := by
    rw [jumpTarget, toNat_append_eq_add, toNat_append_eq_add, BitVec.extractLsb'_toNat, Nat.shiftRight_eq_div_pow, BitVec.toNat_zero]
    omega
  rw [← hnat, BitVec.ofNat_toNat, BitVec.setWidth_eq]

/-! ## What a meaning leaves (R138, R222) -/

/-- An instruction whose whole effect is a pending branch, with or without a link; `taken'` and `target'` are its condition and
its target in the terms of its rule. -/
theorem branches_of_exec {i : Instr} {s : State} {link : Option (RegNum × Word)} {taken taken' : Bool} {target target' : Word}
    (h : exec i s = complete { write := link, branch := some (branchIf s taken target) } s) (htaken : taken' = taken)
    (htarget : target' = target) : Branches i s link taken' target' := by
  subst htaken htarget
  exact ⟨_, h, commit_completed _ s, commit_keepsRest s rfl rfl rfl rfl rfl⟩

end Sys2Proof.Machine
end

section
/-! PROOFS. The statements about branches and jumps (43_branch_jump.md). -/

namespace Sys2Proof.Proofs

open Sys2Proof.Machine Sys2Proof.Safety Sys2Proof.Claims

/-- Settles O11: each jump is one taken pending branch, JALR past the test of its refusal. -/
theorem jumps : Obligations.Jumps := by
  refine ⟨?_, ?_, ?_, ?_, fun s target rd rs => ⟨?_, ?_, ?_, fun hlink => ?_, fun hrd => ?_⟩⟩
  iterate 2 exact targetRow_of_decode fun w hop => by simp [decode, hop]
  iterate 2 exact specialRow_of_decodeSpecial fun w hf => by simp [decodeSpecial, hf]
  · exact branches_of_exec rfl rfl (ofNat_jumpTarget _ _)
  · exact branches_of_exec rfl rfl (ofNat_jumpTarget _ _)
  · exact branches_of_exec rfl rfl rfl
  · have hlinks : ¬(rd = rs ∧ rd ≠ 0#5) := fun ⟨hsame, hrd⟩ => hlink.elim (· hsame) hrd
    exact branches_of_exec (if_neg hlinks) rfl rfl
  · exact if_pos ⟨rfl, hrd⟩

/-- Settles O12: each branch is one pending branch, whose condition and target are the rule's. -/
theorem conditionalBranches : Obligations.ConditionalBranches := by
  refine ⟨?_, ?_, ?_, ?_, ?_, ?_, fun s rs rt imm => ⟨?_, ?_, ?_, ?_, ?_, ?_⟩⟩
  iterate 4 exact immRow_of_decode fun w hop => by simp [decode, hop]
  iterate 2 exact regimmRow_of_decodeRegimm fun w hrt => by simp [decodeRegimm, hrt]
  · exact branches_of_exec rfl rfl (ofInt_branchTarget _ _)
  · exact branches_of_exec rfl decide_not (ofInt_branchTarget _ _)
  iterate 4 exact branches_of_exec rfl rfl (ofInt_branchTarget _ _)

/-- Settles O13: past the test of register 31 each branch is one link with one pending branch. -/
theorem linkBranches : Obligations.LinkBranches := by
  refine ⟨?_, ?_, fun s rs imm => ⟨fun hrs => ⟨?_, ?_⟩, rfl, rfl⟩⟩
  iterate 2 exact regimmRow_of_decodeRegimm fun w hrt => by simp [decodeRegimm, hrt]
  iterate 2 exact branches_of_exec (if_neg hrs) rfl (ofInt_branchTarget _ _)

end Sys2Proof.Proofs
end

section
/-! SUPPORT. Loads and stores (44_load_store.md): the checks of an access said once for every access primitive (20_memory.md R71,
R78), values of a width, and what a load delivers. -/

namespace Sys2Proof.Machine

open Sys2Proof.Safety Sys2Proof.Claims

/-! ## The checks of a data access, in their order (20_memory.md R71, R78, 44_load_store.md R254) -/

/-- The checks that MemRead, MemWrite and MemMerge share: `err` is the address error, `isolated` the answer with the cache
isolated, and `k` what is done at the place that the address leads to. -/
def checkAccess {α : Type} (s : State) (err : Exc) (isolated : Res α) (a : Word) (w : Width) (k : Target → Res α) : Res α :=
  if misaligned w a then .exc err
  else if s.forbids a then .exc err
  else if s.reversed then .refuse .reverseEndian
  else if s.isolated then isolated
  else (route a).elim (.exc .dbe) fun t => if scratchAlias a t then .refuse .scratchpadAlias else k t

theorem memRead_eq_checkAccess (s : State) (bad a : Word) (w : Width) :
    memRead s bad a w = checkAccess s (.adEL bad) (.refuse .isolatedCacheLoad) a w fun t =>
      (deviceRead s t w).elim (.fault .deviceContractViolation) .ok := by
  unfold memRead checkAccess
  rcases route a with _ | t
  · rfl
  · dsimp only [Option.elim]
    cases deviceRead s t w <;> rfl

theorem memWrite_eq_checkAccess (s : State) (a : Word) (w : Width) (v : Word) :
    memWrite s a w v = checkAccess s (.adES a) (.ok (invalidateLine a s)) a w fun t =>
      (deviceWrite s t w v).elim (.fault .deviceContractViolation) fun u => .ok (noteStore t u) := by
  unfold memWrite checkAccess
  rcases route a with _ | t
  · rfl
  · dsimp only [Option.elim]
    cases deviceWrite s t w v <;> rfl

/-- The aligned word lies in the same half of the address space. -/
theorem forbids_wordAddress (s : State) (a : Word) : s.forbids (wordAddress a) = s.forbids a := by
  have hmsb : (wordAddress a).msb = a.msb := (BitVec.msb_and ..).trans (Bool.and_true _)
  rw [State.forbids, State.forbids, hmsb]

theorem memMerge_eq_checkAccess (s : State) (a : Word) (f : Word → Word) :
    memMerge s a f = checkAccess s (.adES a) (.ok (invalidateLine a s)) (wordAddress a) .word fun t =>
      if t.device.isMemory then (deviceWrite s t .word (f (s.mem.readN t.cell .word))).elim (.fault .deviceContractViolation)
        fun u => .ok (noteStore t u)
      else .refuse .partialStoreToDevice := by
  unfold memMerge checkAccess
  rw [misaligned_wordAddress, if_neg Bool.false_ne_true, forbids_wordAddress]
  rcases route (wordAddress a) with _ | t
  · rfl
  · dsimp only [Option.elim]
    cases t.device.isMemory
    · rfl
    · cases deviceWrite s t .word (f (s.mem.readN t.cell .word)) <;> rfl

section
variable {α : Type} {i : Instr} {s : State} {err : Exc} {isolated : Res α} {a : Word} {w : Width} {k : Target → Res α}
  {c : α → StepOutcome} (h : exec i s = (checkAccess s err isolated a w k).settle s c)
include h

/-- An instruction ends as the answer of its access says. -/
theorem exec_of_checkAccess_eq {res : Res α} (hres : checkAccess s err isolated a w k = res) : exec i s = res.settle s c :=
  hres ▸ h

theorem traps_of_misaligned (hal : ¬Aligned w a) : Traps i s err.code err.reports err.coprocessor :=
  traps_of_exec (exec_of_checkAccess_eq (res := .exc err) h (if_pos ((misaligned_iff w a).2 hal)))

variable (hal : Aligned w a)
include hal

theorem traps_of_forbidden (hforbid : Forbidden s a) : Traps i s err.code err.reports err.coprocessor := by
  refine traps_of_exec (exec_of_checkAccess_eq (res := .exc err) h ?_)
  simp only [checkAccess, (misaligned_eq_false_iff w a).2 hal, (forbids_iff s a).2 hforbid, Bool.false_eq_true, if_false,
    if_true]

variable (hforbid : ¬Forbidden s a)
include hforbid

theorem exec_of_reversed (hrev : Reversed s) : exec i s = .refused .reverseEndian := by
  refine exec_of_checkAccess_eq (res := .refuse .reverseEndian) h ?_
  simp only [checkAccess, (misaligned_eq_false_iff w a).2 hal, forbids_iff, hforbid, (reversed_iff s).2 hrev,
    Bool.false_eq_true, if_false, if_true]

variable (hrev : ¬Reversed s)
include hrev

theorem exec_of_isolated (hiso : Isolated s) : exec i s = isolated.settle s c := by
  refine exec_of_checkAccess_eq h ?_
  simp only [checkAccess, (misaligned_eq_false_iff w a).2 hal, forbids_iff, hforbid, reversed_iff, hrev,
    (isolated_iff s).2 hiso, Bool.false_eq_true, if_false, if_true]

variable (hiso : ¬Isolated s)
include hiso

/-- Past the checks that do not depend on the place, the router decides. -/
theorem exec_of_routed : exec i s =
    ((route a).elim (.exc .dbe) fun t => if scratchAlias a t then .refuse .scratchpadAlias else k t).settle s c := by
  refine exec_of_checkAccess_eq h ?_
  simp only [checkAccess, (misaligned_eq_false_iff w a).2 hal, forbids_iff, hforbid, reversed_iff, hrev, isolated_iff, hiso,
    Bool.false_eq_true, if_false]

theorem traps_of_unmapped (hun : Unmapped a) : Traps i s 7 none none := by
  have hexec := exec_of_routed h hal hforbid hrev hiso
  rw [route_eq_none_iff.2 hun] at hexec
  exact traps_of_exec (e := .dbe) hexec

variable {r : Region} {off : Nat} (hreach : Reaches a r off)
include hreach

theorem exec_of_scratchAlias (halias : ScratchAlias a r) : exec i s = .refused .scratchpadAlias := by
  have hexec := exec_of_routed h hal hforbid hrev hiso
  rw [route_of_reaches hreach, Option.elim_some, if_pos ((scratchAlias_iff a r off).2 halias)] at hexec
  exact hexec

end

/-- Past the checks an instruction does what its access does there. -/
theorem exec_of_passesChecks {α : Type} {i : Instr} {s : State} {err : Exc} {isolated : Res α} {a : Word} {w : Width}
    {k : Target → Res α} {c : α → StepOutcome} (h : exec i s = (checkAccess s err isolated a w k).settle s c)
    (hal : Aligned w a) {r : Region} {off : Nat} (hpass : PassesChecks s a r off) : exec i s = (k ⟨r, off⟩).settle s c := by
  obtain ⟨hforbid, hrev, hiso, hreach, halias⟩ := hpass
  have hexec := exec_of_routed h hal hforbid hrev hiso
  rw [route_of_reaches hreach, Option.elim_some, if_neg (mt (scratchAlias_iff a r off).1 halias)] at hexec
  exact hexec

/-! ## Values of a width (20_memory.md R72, R74) -/

/-- The low bytes of a value as the claims cut them. -/
theorem cutTo_eq_cut (w : Width) (v : Word) : cutTo w v = cut w v := by
  apply BitVec.eq_of_toNat_eq
  cases w <;>
    simp only [cutTo, cut, zeroByte, zeroHalf, Width.bytes, BitVec.toNat_setWidth, BitVec.extractLsb'_toNat,
      BitVec.toNat_ofNat, Nat.shiftRight_zero]
  all_goals omega

/-- A value of the width is not cut. -/
theorem cutTo_of_lt {w : Width} {v : Word} (h : v.toNat < 2 ^ (8 * w.bytes)) : cutTo w v = v := by
  rw [cutTo_eq_cut, cut, Nat.mod_eq_of_lt h, BitVec.ofNat_toNat, BitVec.setWidth_eq]

theorem toNat_cut_lt (w : Width) (v : Word) : (cut w v).toNat < 2 ^ (8 * w.bytes) := by
  rw [cut, BitVec.toNat_ofNat]
  exact (Nat.mod_le _ _).trans_lt (Nat.mod_lt _ (Nat.two_pow_pos _))

theorem toNat_readN_lt (m : Memory) (cell : Nat) (w : Width) : (m.readN cell w).toNat < 2 ^ (8 * w.bytes) := by
  cases w with
  | byte | half =>
    rw [Memory.readN, BitVec.toNat_setWidth]
    exact (Nat.mod_le _ _).trans_lt (BitVec.isLt _)
  | word => exact BitVec.isLt _

/-- The sign extension of a value that fits `n` bits. -/
theorem signed_eq_signExtend {n : Nat} (hn : 0 < n) {v : Word} (hv : v.toNat < 2 ^ n) :
    signed n v = (v.extractLsb' 0 n).signExtend 32 := by
  have hlow : (v.extractLsb' 0 n).toNat = v.toNat := by
    rw [BitVec.extractLsb'_toNat, Nat.shiftRight_zero, Nat.mod_eq_of_lt hv]
  have hpow : 2 ^ n = 2 * 2 ^ (n - 1) := by rw [← Nat.pow_succ', Nat.succ_eq_add_one, Nat.sub_add_cancel hn]
  have hhalf : 2 * v.toNat < 2 ^ n ↔ v.toNat < 2 ^ (n - 1) := by omega
  rw [signed, BitVec.signExtend, BitVec.toInt, hlow]
  simp only [hhalf]
  push_cast
  rfl

/-! ## Loads (R251, R253) -/

theorem Access.keepsButMemory_eq {i : Instr} {s u : State} (h : Access i s u) (t : State) :
    KeepsButMemory u t = KeepsButMemory s t := by
  rw [h.frame]
  rfl

/-- The commit of a load or a store after its access. -/
theorem Access.commit_keepsButMemory {i : Instr} {s u : State} (h : Access i s u) (l : Option PendingLoad) :
    KeepsButMemory s (commit { load := l } u) :=
  h.keepsButMemory_eq _ ▸ (commit_keepsRest u rfl rfl rfl rfl rfl).1

/-- A load that stages `l` after reading its device. -/
theorem delivers_of_exec {i : Instr} {s u : State} {l : PendingLoad} (hi : isStore i = false) (hu : Access i s u)
    (h : exec i s = complete { load := some l } u) : Delivers i s l u.busLog := by
  obtain ⟨hmem, hstale⟩ := hu.keeps_of_not_store hi
  exact ⟨_, h, hu.completed _, hu.commit_keepsButMemory (some l), fun c => congrArg (Memory.read · c) hmem, hstale, rfl⟩

/-- What a load past its checks delivers: `deliver` is the rule's value, `f` the model's, and they agree on values of the width. -/
theorem loadsFrom_of_exec {i : Instr} {s : State} {rt : RegNum} {r : Region} {off : Nat} {w : Width} {f : Word → Word}
    {deliver : Word → PendingLoad} (hi : isLoad i = true) (hs : isStore i = false)
    (hdeliver : ∀ v : Word, v.toNat < 2 ^ (8 * w.bytes) → deliver v = ⟨rt, f v⟩)
    (h : exec i s = ((deviceRead s ⟨r, off⟩ w).elim (.fault .deviceContractViolation) Res.ok).settle s fun p =>
      complete { load := some ⟨rt, f p.1⟩ } p.2) : LoadsFrom i s r off w deliver := by
  unfold LoadsFrom
  split
  · next hmem =>
    rw [deviceRead_memory hmem] at h
    rw [ofNat_bytesAt, hdeliver _ (toNat_readN_lt s.mem _ w)]
    exact delivers_of_exec hs .none h
  · next hext =>
    rw [deviceRead_external hext] at h
    split
    · next hans => rwa [hans] at h
    · next v hans =>
      rw [hans, Option.map_some, cutTo_eq_cut] at h
      rw [hdeliver _ (toNat_cut_lt w v)]
      exact delivers_of_exec hs (.busRead (.read r.device off w) hi) h

/-- A load has the checks of R78, and past them delivers what it read. -/
theorem checkedLoad_of_exec {i : Instr} {s : State} {rt : RegNum} {bad a : Word} {w : Width} {f : Word → Word}
    {deliver : Word → PendingLoad} (hi : isLoad i = true) (hs : isStore i = false) (hexec : exec i s = loadInto s rt bad a w f)
    (hdeliver : ∀ v : Word, v.toNat < 2 ^ (8 * w.bytes) → deliver v = ⟨rt, f v⟩) : CheckedLoad i s bad a w deliver := by
  rw [loadInto, memRead_eq_checkAccess] at hexec
  exact
    { misaligned := traps_of_misaligned hexec
      forbidden := traps_of_forbidden hexec
      reversed := exec_of_reversed hexec
      isolated := exec_of_isolated hexec
      unmapped := traps_of_unmapped hexec
      scratch := fun hal hforbid hrev hiso _ _ => exec_of_scratchAlias hexec hal hforbid hrev hiso
      loads := fun hal _ _ hpass => loadsFrom_of_exec hi hs hdeliver (exec_of_passesChecks hexec hal hpass) }

end Sys2Proof.Machine
end

section
/-! SUPPORT. The aligned word of an unaligned access (44_load_store.md R254, R260): where it lies, and its bytes in the merged words
of LWL, LWR, SWL and SWR. -/

namespace Sys2Proof.Machine

open Sys2Proof.Safety Sys2Proof.Claims

/-! ## The aligned word that holds an address (R254, R260) -/

theorem toNat_alignedWord (a : Word) : (alignedWord a).toNat = a.toNat / 4 * 4 := by
  rw [alignedWord, BitVec.toNat_ofNat]
  omega

theorem aligned_alignedWord (a : Word) : Aligned .word (alignedWord a) := by
  rw [Aligned, toNat_alignedWord]
  exact Nat.mul_mod_left _ 4

/-- Clearing the low two bits rounds down to a word. -/
theorem wordAddress_eq_alignedWord (a : Word) : wordAddress a = alignedWord a := by
  have hbits : wordAddress a = (a >>> 2) <<< 2 := by
    refine BitVec.eq_of_getLsbD_eq fun i hi => ?_
    rw [wordAddress]
    interval_cases i <;> simp
  apply BitVec.eq_of_toNat_eq
  rw [hbits, toNat_alignedWord, BitVec.toNat_shiftLeft, BitVec.toNat_ushiftRight, Nat.shiftLeft_eq, Nat.shiftRight_eq_div_pow]
  omega

/-- An address lies as far into its word as its offset does. -/
theorem reaches_alignedWord {a : Word} {r : Region} {off : Nat} (h : Reaches a r off) :
    Reaches (alignedWord a) r (off / 4 * 4) ∧ off % 4 = a.toNat % 4 := by
  obtain ⟨hr, hlow, hhigh, rfl⟩ := h
  obtain ⟨⟨b, hbase⟩, ⟨p, hperiod⟩, -⟩ := regionTable_words r hr
  have hfold : foldAddress (alignedWord a) = foldAddress a / 4 * 4 := by
    rw [foldAddress_eq, foldAddress_eq, toNat_alignedWord]
    split_ifs <;> omega
  have hmod := foldAddress_mod_four a
  refine ⟨⟨hr, by omega, by omega, ?_⟩, ?_⟩
  · have hword : foldAddress a / 4 * 4 - r.base = (foldAddress a - r.base) / 4 * 4 := by omega
    rw [hfold, hword, hperiod, Nat.mod_mul_right_div_self, Nat.mul_comm 4 p, Nat.mul_mod_mul_right]
  · rw [hperiod, Nat.mod_mul_right_mod]
    omega

/-- The checks of an address are those of its aligned word. -/
theorem passesChecks_alignedWord {s : State} {a : Word} {r : Region} {off : Nat} (h : PassesChecks s a r off) :
    PassesChecks s (alignedWord a) r (off / 4 * 4) := by
  obtain ⟨hforbid, hrev, hiso, hreach, halias⟩ := h
  refine ⟨?_, hrev, hiso, (reaches_alignedWord hreach).1, ?_⟩
  · rwa [← forbids_iff, ← wordAddress_eq_alignedWord, forbids_wordAddress, forbids_iff]
  · have hseg : segment (alignedWord a) = segment a := by
      rw [segment_eq_iff, segment_toNat, toNat_alignedWord]
      omega
    rintro ⟨hdev, hkseg⟩
    exact halias ⟨hdev, hseg.symm.trans hkseg⟩

/-! ## Bytes of words (20_memory.md R74) -/

theorem getLsbD_byteOf (v : Word) (j : Nat) {i : Nat} (hi : i < 8) : (byteOf v j).getLsbD i = v.getLsbD (8 * j + i) := by
  rw [byteOf, BitVec.getLsbD_extractLsb', decide_eq_true hi, Bool.true_and]

/-- Byte `k` of a word of memory lies `k` cells up. -/
theorem byteOf_readN_word (m : Memory) (cell : Nat) {k : Nat} (hk : k < 4) :
    byteOf (m.readN cell .word) k = m.read (cell + k) := by
  refine BitVec.eq_of_getLsbD_eq fun i hi => ?_
  rw [getLsbD_byteOf _ _ hi, Memory.readN, wordOfBytes]
  simp only [BitVec.getLsbD_append]
  interval_cases k <;> grind

/-- A shift by whole bytes. -/
theorem byteOf_shiftRight (v : Word) (m k : Nat) : byteOf (v >>> (8 * m)) k = byteOf v (k + m) := by
  refine BitVec.eq_of_getLsbD_eq fun i hi => ?_
  rw [getLsbD_byteOf _ _ hi, getLsbD_byteOf _ _ hi, BitVec.getLsbD_ushiftRight,
    show 8 * m + (8 * k + i) = 8 * (k + m) + i by omega]

/-- A word is its four bytes. -/
theorem eq_of_byteOf_eq {v : Word} {b0 b1 b2 b3 : Byte} (h0 : byteOf v 0 = b0) (h1 : byteOf v 1 = b1) (h2 : byteOf v 2 = b2)
    (h3 : byteOf v 3 = b3) : v = b3 ++ b2 ++ b1 ++ b0 := by
  subst h0 h1 h2 h3
  exact (wordOfBytes_extract v).symm

/-! ## The merged words (R260, R261, R265, R266) -/

/-- Bytes from `k` up are the lowest of `new`, the others those of `old`. -/
def spliceHigh (k : Nat) (old new : Word) : Word := (old &&& BitVec.ofNat 32 (2 ^ (8 * k) - 1)) ||| (new <<< (8 * k))

/-- The bytes of `new` from `k` up stand at the low end, above them those of `old`. -/
def spliceLow (k : Nat) (old new : Word) : Word := (old &&& ~~~BitVec.ofNat 32 (2 ^ (8 * (4 - k)) - 1)) ||| (new >>> (8 * k))

theorem getLsbD_lowMask (m : Nat) {i : Nat} (hi : i < 32) : (BitVec.ofNat 32 (2 ^ m - 1)).getLsbD i = decide (i < m) := by
  rw [BitVec.getLsbD_ofNat, Nat.testBit_two_pow_sub_one, decide_eq_true hi, Bool.true_and]

theorem byteOf_spliceHigh (k : Nat) (old new : Word) {j : Nat} (hj : j < 4) :
    byteOf (spliceHigh k old new) j = if k ≤ j then byteOf new (j - k) else byteOf old j := by
  refine BitVec.eq_of_getLsbD_eq fun i hi => ?_
  have hbit : 8 * j + i < 32 := by omega
  rw [getLsbD_byteOf _ _ hi, spliceHigh, BitVec.getLsbD_or, BitVec.getLsbD_and, getLsbD_lowMask _ hbit,
    BitVec.getLsbD_shiftLeft]
  split
  · have hlow : ¬8 * j + i < 8 * k := by omega
    simp [getLsbD_byteOf _ _ hi, hlow, hbit, show 8 * j + i - 8 * k = 8 * (j - k) + i by omega]
  · have hlow : 8 * j + i < 8 * k := by omega
    simp [getLsbD_byteOf _ _ hi, hlow]

theorem byteOf_spliceLow {k : Nat} (hk : k < 4) (old new : Word) {j : Nat} (hj : j < 4) :
    byteOf (spliceLow k old new) j = if j ≤ 3 - k then byteOf new (j + k) else byteOf old j := by
  refine BitVec.eq_of_getLsbD_eq fun i hi => ?_
  have hbit : 8 * j + i < 32 := by omega
  rw [getLsbD_byteOf _ _ hi, spliceLow, BitVec.getLsbD_or, BitVec.getLsbD_and, BitVec.getLsbD_not, getLsbD_lowMask _ hbit,
    BitVec.getLsbD_ushiftRight]
  split
  · have hlow : 8 * j + i < 8 * (4 - k) := by omega
    simp [getLsbD_byteOf _ _ hi, hlow, show 8 * k + (8 * j + i) = 8 * (j + k) + i by omega]
  · have hlow : ¬8 * j + i < 8 * (4 - k) := by omega
    have hout : 32 ≤ 8 * k + (8 * j + i) := by omega
    simp [getLsbD_byteOf _ _ hi, hlow, hbit, BitVec.getLsbD_of_ge _ _ hout]

theorem byteInWord_eq_ofNat (a : Word) : byteInWord a = BitVec.ofNat 2 (a.toNat % 4) := by
  apply BitVec.eq_of_toNat_eq
  rw [byteInWord, BitVec.extractLsb'_toNat, Nat.shiftRight_zero, BitVec.toNat_ofNat, Nat.mod_mod]

/-- The merged words of the four unaligned forms, by the address's place in its word (R260, R261, R265, R266). -/
theorem merge_eq_splice (a x y : Word) :
    lwlMerge a x y = spliceHigh (3 - a.toNat % 4) x y ∧ lwrMerge a x y = spliceLow (a.toNat % 4) x y ∧
      swlMerge a y x = spliceLow (3 - a.toNat % 4) x y ∧ swrMerge a y x = spliceHigh (a.toNat % 4) x y := by
  have hn : a.toNat % 4 < 4 := Nat.mod_lt _ (by decide)
  simp only [lwlMerge, lwrMerge, swlMerge, swrMerge, byteInWord_eq_ofNat]
  generalize a.toNat % 4 = n at hn
  interval_cases n <;> simp [spliceHigh, spliceLow]

/-- LWL puts the word's bytes up to the address at the most significant end. -/
theorem byteOf_lwlMerge (a cur w : Word) {j : Nat} (hj : j < 4) : byteOf (lwlMerge a cur w) j =
    if 3 - a.toNat % 4 ≤ j then byteOf w (j - (3 - a.toNat % 4)) else byteOf cur j := by
  obtain ⟨h, -, -, -⟩ := merge_eq_splice a cur w
  rw [h, byteOf_spliceHigh _ _ _ hj]

/-- LWR puts the word's bytes from the address up at the least significant end. -/
theorem byteOf_lwrMerge (a cur w : Word) {j : Nat} (hj : j < 4) : byteOf (lwrMerge a cur w) j =
    if j ≤ 3 - a.toNat % 4 then byteOf w (j + a.toNat % 4) else byteOf cur j := by
  obtain ⟨-, h, -, -⟩ := merge_eq_splice a cur w
  rw [h, byteOf_spliceLow (Nat.mod_lt _ (by decide)) _ _ hj]

/-- SWL changes the word's bytes up to the address. -/
theorem byteOf_swlMerge (a v m : Word) {j : Nat} (hj : j < 4) : byteOf (swlMerge a v m) j =
    if j ≤ a.toNat % 4 then byteOf v (j + (3 - a.toNat % 4)) else byteOf m j := by
  obtain ⟨-, -, h, -⟩ := merge_eq_splice a m v
  rw [h, byteOf_spliceLow (by omega) _ _ hj, Nat.sub_sub_self (by omega)]

/-- SWR changes the word's bytes from the address up. -/
theorem byteOf_swrMerge (a v m : Word) {j : Nat} (hj : j < 4) : byteOf (swrMerge a v m) j =
    if a.toNat % 4 ≤ j then byteOf v (j - a.toNat % 4) else byteOf m j := by
  obtain ⟨-, -, -, h⟩ := merge_eq_splice a m v
  rw [h, byteOf_spliceHigh _ _ _ hj]

/-- An unaligned address and `a + 3` lie in neighbouring words. -/
theorem toNat_add_three_mod {a : Word} (hal : ¬Aligned .word a) : (a + 3).toNat % 4 = a.toNat % 4 - 1 := by
  have hmod : a.toNat % 4 ≠ 0 := hal
  have hend : (a + 3).toNat = (a.toNat + 3) % 2 ^ 32 := BitVec.toNat_add a 3
  omega

/-- LWL at `a + 3` after LWR at `a`: the low bytes are the last ones of the first word, the high bytes the first ones of the
second. -/
theorem byteOf_lwlMerge_lwrMerge {a : Word} (hal : ¬Aligned .word a) (cur w w' : Word) {j : Nat} (hj : j < 4) :
    byteOf (lwlMerge (a + 3) (lwrMerge a cur w) w') j =
      if j ≤ 3 - a.toNat % 4 then byteOf w (j + a.toNat % 4) else byteOf w' (j - (4 - a.toNat % 4)) := by
  have hmod : a.toNat % 4 ≠ 0 := hal
  rw [byteOf_lwlMerge _ _ _ hj, byteOf_lwrMerge _ _ _ hj, toNat_add_three_mod hal,
    show 3 - (a.toNat % 4 - 1) = 4 - a.toNat % 4 by omega]
  by_cases hlow : j ≤ 3 - a.toNat % 4
  · rw [if_neg (by omega), if_pos hlow, if_pos hlow]
  · rw [if_pos (by omega), if_neg hlow]

end Sys2Proof.Machine
end

section
/-! SUPPORT. What a store leaves (44_load_store.md R252, R254), the four unaligned forms at the place that their address leads to,
and the places of a pair of them (R267). -/

namespace Sys2Proof.Machine

open Sys2Proof.Safety Sys2Proof.Claims

/-! ## Stores (R252, R254) -/

theorem not_isMemory_of_not_device {r : Region} (hdev : ¬(r.device = .ram ∨ r.device = .scratch)) (hbios : ¬r.device = .bios) :
    ¬IsMemory r :=
  fun hmem => (or_assoc.2 hmem).elim hdev hbios

theorem deviceWrite_bios {r : Region} (h : r.device = .bios) (s : State) (off : Nat) (w : Width) (v : Word) :
    deviceWrite s ⟨r, off⟩ w v = none := by
  simp [deviceWrite, Target.device, h, Device.isWritable, Device.isMemory]

theorem deviceWrite_external {r : Region} (h : ¬IsMemory r) (s : State) (off : Nat) (w : Width) (v : Word) :
    deviceWrite s ⟨r, off⟩ w v = (Config.deviceAnswer s.tick s.busLog (.write r.device off w (cut w v))).map
      fun _ => logBus (.write r.device off w (cut w v)) s := by
  have hwrite : ¬r.device.isWritable = true := fun hw => h (((isWritable_iff _).1 hw).imp_right .inl)
  rw [← isMemory_iff] at h
  simp only [deviceWrite, Target.device, hwrite, h, cutTo_eq_cut]
  cases Config.deviceAnswer s.tick s.busLog (.write r.device off w (cut w v)) <;> rfl

theorem marked_noteStore (s u : State) (r : Region) (off : Nat) (h : u.icacheStale = s.icacheStale) :
    Marked s (commit {} (noteStore ⟨r, off⟩ u)) r.device off := by
  intro m
  rw [commit_icacheStale, noteStore_icacheStale, mem_insertMark, h, markOf, show off / 4 * 4 = off - off % 4 by omega]
  rfl

theorem storesBytes_writeN {s t : State} {cell : Nat} {v : Word} {w : Width} (h : t.mem = s.mem.writeN cell v w) :
    StoresBytes s t cell w.bytes v where
  stored k hk := by rw [State.readByte, h]; exact Memory.read_writeN s.mem cell v w hk
  rest c hc := by rw [State.readByte, h]; exact Memory.read_writeN_outside s.mem cell v w hc

/-- Writing back the word `x`, which differs from the word there only in the bytes from `lo` up to `lo + n`, stores those bytes
alone. -/
theorem storesBytes_of_merge {s t : State} {cell lo n : Nat} {x v : Word} (h : t.mem = s.mem.writeN cell x .word)
    (hlen : lo + n ≤ 4) (hstored : ∀ k, k < n → byteOf x (lo + k) = byteOf v k)
    (hkept : ∀ j, j < 4 → (j < lo ∨ lo + n ≤ j) → byteOf x j = byteOf (s.mem.readN cell .word) j) :
    StoresBytes s t (cell + lo) n v := by
  have hword := storesBytes_writeN h
  refine ⟨fun k hk => ?_, fun c hc => ?_⟩
  · rw [Nat.add_assoc, hword.stored (lo + k) (by simp only [Width.bytes]; omega), hstored k hk]
  · by_cases hin : cell ≤ c ∧ c < cell + 4
    · obtain ⟨j, rfl⟩ := Nat.exists_eq_add_of_le hin.1
      have hj : j < 4 := by omega
      rw [hword.stored j hj, hkept j hj (by omega), byteOf_readN_word _ _ hj, State.readByte]
    · exact hword.rest c (by simp only [Width.bytes]; omega)

section
variable {i : Instr} {s : State} (hi : isStore i = true)
include hi

/-- A store that writes RAM or SCRATCH. -/
theorem storesMemory_of_exec {a : Word} {r : Region} {off cell n : Nat} {w : Width} {x v : Word} (hal : Aligned w a)
    (hreach : Reaches a r off) (hdev : r.device = .ram ∨ r.device = .scratch)
    (hbytes : ∀ t : State, t.mem = s.mem.writeN (r.base + off) x w → StoresBytes s t cell n v)
    (h : exec i s = ((deviceWrite s ⟨r, off⟩ w x).elim (.fault .deviceContractViolation) fun u =>
      Res.ok (noteStore ⟨r, off⟩ u)).settle s (complete {})) : StoresMemory i s cell n v r.device off := by
  rw [deviceWrite_writable hdev] at h
  have hu : Access i s (noteStore ⟨r, off⟩ (setMem (s.mem.writeN (r.base + off) x w) s)) :=
    .stored a w x ⟨r, off⟩ hi ((misaligned_eq_false_iff w a).2 hal) (route_of_reaches hreach) ((isWritable_iff r.device).2 hdev)
  exact ⟨_, h, hu.completed {}, hu.commit_keepsButMemory none, hbytes _ rfl, marked_noteStore s _ r off rfl, rfl⟩

/-- A store of a width past its checks. -/
theorem storesTo_of_exec {a : Word} {r : Region} {off : Nat} {w : Width} {v : Word} (hal : Aligned w a) (hreach : Reaches a r off)
    (h : exec i s = ((deviceWrite s ⟨r, off⟩ w v).elim (.fault .deviceContractViolation) fun u =>
      Res.ok (noteStore ⟨r, off⟩ u)).settle s (complete {})) : StoresTo i s r off w v := by
  unfold StoresTo
  split
  · next hdev => exact storesMemory_of_exec hi hal hreach hdev (fun _ => storesBytes_writeN) h
  split
  · next hbios => rwa [deviceWrite_bios hbios] at h
  · next hdev hbios =>
    have hext := not_isMemory_of_not_device hdev hbios
    rw [deviceWrite_external hext] at h
    split
    · next hans => rwa [hans] at h
    · next hans =>
      rw [hans, Option.map_some] at h
      have hu : Access i s (noteStore ⟨r, off⟩ (logBus (.write r.device off w (cut w v)) s)) :=
        .busWrite _ ⟨r, off⟩ hi (by simpa [Target.device] using mt (isMemory_iff r).1 hext)
      exact ⟨_, h, hu.completed {}, hu.commit_keepsButMemory none, fun _ => rfl, marked_noteStore s _ r off rfl, rfl⟩

/-- A store with the cache isolated is discarded (R84, R95). -/
theorem discards_of_exec {a : Word} (hiso : Isolated s) (h : exec i s = complete {} (invalidateLine a s)) : Discards i s a := by
  have hu : Access i s (invalidateLine a s) := .discarded a hi hiso
  have hline : addressLine a = a.toNat / 16 % 256 := by
    rw [addressLine, BitVec.extractLsb'_toNat, Nat.shiftRight_eq_div_pow]
  refine ⟨_, h, hu.completed {}, hu.commit_keepsButMemory none, fun _ => rfl, rfl, fun m => ?_⟩
  rw [commit_icacheStale, invalidateLine_icacheStale, List.mem_filter, bne_iff_ne, hline, markLine]

/-- A store has the checks of R78 and R254, and past them does what `perform` says. -/
theorem checkedStore_of_exec {bad a : Word} {w : Width} {k : Target → Res State} {perform : Region → Nat → Prop}
    (hexec : exec i s = storeTo s (checkAccess s (.adES bad) (.ok (invalidateLine bad s)) a w k))
    (hperform : ∀ r off, Aligned w a → Reaches a r off → exec i s = storeTo s (k ⟨r, off⟩) → perform r off) :
    CheckedStore i s bad a w perform where
  misaligned := traps_of_misaligned hexec
  forbidden := traps_of_forbidden hexec
  reversed := exec_of_reversed hexec
  isolated hal hforbid hrev hiso := discards_of_exec hi hiso (exec_of_isolated hexec hal hforbid hrev hiso)
  unmapped := traps_of_unmapped hexec
  scratch hal hforbid hrev hiso _ _ := exec_of_scratchAlias hexec hal hforbid hrev hiso
  performs hal r off hpass :=
    have ⟨_, _, _, hreach, _⟩ := hpass
    hperform r off hal hreach (exec_of_passesChecks hexec hal hpass)

theorem checkedStore_of_memWrite {a : Word} {w : Width} {v : Word} (hexec : exec i s = storeTo s (memWrite s a w v)) :
    CheckedStore i s a a w fun r off => StoresTo i s r off w v := by
  rw [memWrite_eq_checkAccess] at hexec
  exact checkedStore_of_exec hi hexec fun _ _ hal hreach h => storesTo_of_exec hi hal hreach h

/-- SWL and SWR store the bytes from `lo` up to `lo + n` of the aligned word. -/
theorem checkedStore_of_memMerge {a v : Word} {lo n : Nat} {f : Word → Word} (hexec : exec i s = storeTo s (memMerge s a f))
    (hlen : lo + n ≤ 4) (hstored : ∀ x k, k < n → byteOf (f x) (lo + k) = byteOf v k)
    (hkept : ∀ x j, j < 4 → (j < lo ∨ lo + n ≤ j) → byteOf (f x) j = byteOf x j) :
    CheckedStore i s a (alignedWord a) .word fun r off =>
      if r.device = .ram ∨ r.device = .scratch then StoresMemory i s (r.base + off + lo) n v r.device off
      else if r.device = .bios then exec i s = .fault .deviceContractViolation
      else exec i s = .refused .partialStoreToDevice := by
  rw [memMerge_eq_checkAccess, wordAddress_eq_alignedWord] at hexec
  refine checkedStore_of_exec hi hexec fun r off hal hreach h => ?_
  simp only [Target.device, isMemory_iff] at h
  split
  · next hdev =>
    rw [if_pos (hdev.imp_right .inl)] at h
    exact storesMemory_of_exec hi hal hreach hdev (fun t ht => storesBytes_of_merge ht hlen (hstored _) (hkept _)) h
  split
  · next hbios =>
    rw [if_pos (.inr (.inr hbios)), deviceWrite_bios hbios] at h
    exact h
  · next hdev hbios =>
    rw [if_neg (not_isMemory_of_not_device hdev hbios)] at h
    exact h

end

/-! ## The four unaligned forms -/

theorem checkedLoad_lwl (s : State) (rt rs : RegNum) (imm : BitVec 16) :
    CheckedLoad (.lwl rt imm rs) s (address s rs imm) (alignedWord (address s rs imm)) .word fun w =>
      ⟨rt, lwlMerge (address s rs imm) (mergeBase s rt) w⟩ := by
  rw [← wordAddress_eq_alignedWord]
  exact checkedLoad_of_exec rfl rfl rfl fun _ _ => rfl

theorem checkedLoad_lwr (s : State) (rt rs : RegNum) (imm : BitVec 16) :
    CheckedLoad (.lwr rt imm rs) s (address s rs imm) (alignedWord (address s rs imm)) .word fun w =>
      ⟨rt, lwrMerge (address s rs imm) (mergeBase s rt) w⟩ := by
  rw [← wordAddress_eq_alignedWord]
  exact checkedLoad_of_exec rfl rfl rfl fun _ _ => rfl

theorem checkedStore_swl (s : State) (rt rs : RegNum) (imm : BitVec 16) :
    let a := address s rs imm
    CheckedStore (.swl rt imm rs) s a (alignedWord a) .word fun r off =>
      if r.device = .ram ∨ r.device = .scratch then
        StoresMemory (.swl rt imm rs) s (r.base + off) (a.toNat % 4 + 1) (s.readReg rt >>> (8 * (3 - a.toNat % 4))) r.device off
      else if r.device = .bios then exec (.swl rt imm rs) s = .fault .deviceContractViolation
      else exec (.swl rt imm rs) s = .refused .partialStoreToDevice := by
  refine checkedStore_of_memMerge (f := swlMerge (address s rs imm) (s.readReg rt)) (lo := 0) rfl rfl (by omega)
    (fun x k hk => ?_) (fun x j hj hout => ?_)
  · rw [byteOf_swlMerge _ _ _ (by omega), if_pos (by omega), byteOf_shiftRight, Nat.zero_add]
  · rw [byteOf_swlMerge _ _ _ hj, if_neg (by omega)]

theorem checkedStore_swr (s : State) (rt rs : RegNum) (imm : BitVec 16) :
    let a := address s rs imm
    CheckedStore (.swr rt imm rs) s a (alignedWord a) .word fun r off =>
      if r.device = .ram ∨ r.device = .scratch then
        StoresMemory (.swr rt imm rs) s (r.base + off + a.toNat % 4) (4 - a.toNat % 4) (s.readReg rt) r.device off
      else if r.device = .bios then exec (.swr rt imm rs) s = .fault .deviceContractViolation
      else exec (.swr rt imm rs) s = .refused .partialStoreToDevice := by
  refine checkedStore_of_memMerge (f := swrMerge (address s rs imm) (s.readReg rt)) rfl rfl (by omega)
    (fun x k hk => ?_) (fun x j hj hout => ?_)
  · rw [byteOf_swrMerge _ _ _ (by omega), if_pos (by omega), Nat.add_sub_cancel_left]
  · rw [byteOf_swrMerge _ _ _ hj, if_neg (by omega)]

/-! ## The unaligned forms past their checks, at the place that their own address leads to -/

section
variable {s : State} {rs : RegNum} {imm : BitVec 16} {a : Word} {r : Region} {off : Nat} (rt : RegNum)
  (ha : address s rs imm = a) (hpass : PassesChecks s a r off)
include ha hpass

theorem delivers_lwl (hmem : IsMemory r) : Delivers (.lwl rt imm rs) s
    ⟨rt, lwlMerge a (mergeBase s rt) (s.mem.readN (r.base + off / 4 * 4) .word)⟩ s.busLog := by
  subst ha
  have hload := (checkedLoad_lwl s rt rs imm).loads (aligned_alignedWord _) r _ (passesChecks_alignedWord hpass)
  rwa [LoadsFrom, if_pos hmem, ofNat_bytesAt] at hload

theorem delivers_lwr (hmem : IsMemory r) : Delivers (.lwr rt imm rs) s
    ⟨rt, lwrMerge a (mergeBase s rt) (s.mem.readN (r.base + off / 4 * 4) .word)⟩ s.busLog := by
  subst ha
  have hload := (checkedLoad_lwr s rt rs imm).loads (aligned_alignedWord _) r _ (passesChecks_alignedWord hpass)
  rwa [LoadsFrom, if_pos hmem, ofNat_bytesAt] at hload

theorem storesMemory_swl (hdev : r.device = .ram ∨ r.device = .scratch) : StoresMemory (.swl rt imm rs) s
    (r.base + off / 4 * 4) (a.toNat % 4 + 1) (s.readReg rt >>> (8 * (3 - a.toNat % 4))) r.device (off / 4 * 4) := by
  subst ha
  have hstore := (checkedStore_swl s rt rs imm).performs (aligned_alignedWord _) r _ (passesChecks_alignedWord hpass)
  rwa [if_pos hdev] at hstore

theorem storesMemory_swr (hdev : r.device = .ram ∨ r.device = .scratch) : StoresMemory (.swr rt imm rs) s
    (r.base + off / 4 * 4 + a.toNat % 4) (4 - a.toNat % 4) (s.readReg rt) r.device (off / 4 * 4) := by
  subst ha
  have hstore := (checkedStore_swr s rt rs imm).performs (aligned_alignedWord _) r _ (passesChecks_alignedWord hpass)
  rwa [if_pos hdev] at hstore

end

/-! ## The places of a pair of unaligned accesses (R267) -/

/-- The merge base is the carried-in load to the same register (R253). -/
theorem mergeBase_of_carried {s : State} {rt : RegNum} {v : Word} (h : s.pendingLoad = some ⟨rt, v⟩) : mergeBase s rt = v := by
  rw [mergeBase, h]
  exact if_pos rfl

/-- The checks read the status register alone. -/
theorem passesChecks_of_sr_eq {s t : State} {a : Word} {r : Region} {off : Nat} (hsr : t.sr = s.sr)
    (h : PassesChecks s a r off) : PassesChecks t a r off := by
  simpa only [PassesChecks, Forbidden, Reversed, Isolated, hsr] using h

/-- Addresses in one aligned word have offsets in one word. -/
theorem offset_of_same_word {x y : Word} {r : Region} {o off : Nat} (hx : Reaches x r o) (hy : Reaches y r off)
    (hsame : x.toNat / 4 = y.toNat / 4) : o = off / 4 * 4 + x.toNat % 4 := by
  obtain ⟨hxword, hxmod⟩ := reaches_alignedWord hx
  obtain ⟨hyword, -⟩ := reaches_alignedWord hy
  rw [alignedWord, hsame] at hxword
  have hword := (reaches_unique hxword hyword).2
  omega

/-- The offset of byte `j` from an unaligned address up, which lies `n` bytes into its word: in the word of offset `off`, and past
its end in the word of offset `off'`. -/
def unalignedOffset (n off off' j : Nat) : Nat :=
  if j ≤ 3 - n then off / 4 * 4 + (j + n) else off' / 4 * 4 + (j - (4 - n))

theorem offset_eq_unalignedOffset {a : Word} {r : Region} {off off' j o : Nat} (hal : ¬Aligned .word a) (hoff : Reaches a r off)
    (hoff' : Reaches (a + 3) r off') (hj : j < 4) (h : Reaches (a + BitVec.ofNat 32 j) r o) :
    o = unalignedOffset (a.toNat % 4) off off' j := by
  have hmod : a.toNat % 4 ≠ 0 := hal
  have hsum : (a + BitVec.ofNat 32 j).toNat = (a.toNat + j) % 2 ^ 32 := by
    rw [BitVec.toNat_add, BitVec.toNat_ofNat, Nat.add_mod_mod]
  have hend : (a + 3).toNat = (a.toNat + 3) % 2 ^ 32 := BitVec.toNat_add a 3
  unfold unalignedOffset
  split
  · have hplace := offset_of_same_word h hoff (by omega)
    omega
  · have hplace := offset_of_same_word h hoff' (by omega)
    omega

/-- SWR's bytes of `v` at the end of one word and then SWL's at the start of another are the four bytes of `v`, and no byte else
changes, nor between the two. -/
theorem storesBytes_pair {s t t' u : State} {base n off off' : Nat} {v : Word} (hn : n < 4) (hpos : n ≠ 0)
    (hswr : StoresBytes s t (base + off / 4 * 4 + n) (4 - n) v) (hkeeps : KeepsBytes t t')
    (hswl : StoresBytes t' u (base + off' / 4 * 4) (n - 1 + 1) (v >>> (8 * (3 - (n - 1))))) :
    (∀ j, j < 4 → u.readByte (base + unalignedOffset n off off' j) = byteOf v j) ∧
      ∀ c, (∀ j, j < 4 → c ≠ base + unalignedOffset n off off' j) → u.readByte c = s.readByte c := by
  refine ⟨fun j hj => ?_, fun c hc => ?_⟩
  · by_cases hlow : j ≤ 3 - n
    · rw [unalignedOffset, if_pos hlow, hswl.rest _ (by omega), hkeeps, Nat.add_comm j n, ← Nat.add_assoc, ← Nat.add_assoc]
      exact hswr.stored j (by omega)
    · rw [unalignedOffset, if_neg hlow, ← Nat.add_assoc, hswl.stored _ (by omega), byteOf_shiftRight]
      congr 1
      omega
  · have hfirst : c < base + off / 4 * 4 + n ∨ base + off / 4 * 4 + n + (4 - n) ≤ c := by
      by_contra hin
      have hne := hc (c - (base + off / 4 * 4 + n)) (by omega)
      rw [unalignedOffset, if_pos (by omega)] at hne
      omega
    have hsecond : c < base + off' / 4 * 4 ∨ base + off' / 4 * 4 + (n - 1 + 1) ≤ c := by
      by_contra hin
      have hne := hc (c - (base + off' / 4 * 4) + (4 - n)) (by omega)
      rw [unalignedOffset, if_neg (by omega)] at hne
      omega
    rw [hswl.rest c hsecond, hkeeps, hswr.rest c hfirst]

end Sys2Proof.Machine
end

section
/-! PROOFS. The statements about loads and stores (44_load_store.md). -/

namespace Sys2Proof.Proofs

open Sys2Proof.Machine Sys2Proof.Safety Sys2Proof.Claims

/-- Settles O15: each load is one checked read, whose value of the width the rule extends as the model does. -/
theorem loads : Obligations.Loads := by
  refine ⟨?_, ?_, ?_, ?_, ?_, fun s rt rs imm => ⟨?_, ?_, ?_, ?_, ?_⟩⟩
  iterate 5 exact immRow_of_decode fun w hop => by simp [decode, hop]
  · exact checkedLoad_of_exec (f := signByte) rfl rfl rfl fun v hv => congrArg _ (signed_eq_signExtend (by decide) hv)
  · exact checkedLoad_of_exec (f := zeroByte) rfl rfl rfl fun v hv => congrArg _ (cutTo_of_lt hv).symm
  · exact checkedLoad_of_exec (f := signHalf) rfl rfl rfl fun v hv => congrArg _ (signed_eq_signExtend (by decide) hv)
  · exact checkedLoad_of_exec (f := zeroHalf) rfl rfl rfl fun v hv => congrArg _ (cutTo_of_lt hv).symm
  · exact checkedLoad_of_exec (f := fun v => v) rfl rfl rfl fun v _ => rfl

/-- Settles O16: each load is one checked read of the aligned word, merged into the carried-in load or the register. -/
theorem unalignedLoads : Obligations.UnalignedLoads := by
  refine ⟨?_, ?_, fun s rt rs imm cur hcur => ?_⟩
  iterate 2 exact immRow_of_decode fun w hop => by simp [decode, hop]
  obtain rfl : cur = mergeBase s rt := hcur
  exact ⟨_, _, checkedLoad_lwl s rt rs imm, checkedLoad_lwr s rt rs imm,
    fun w j hj => ⟨byteOf_lwlMerge _ _ w hj, byteOf_lwrMerge _ _ w hj⟩⟩

/-- Settles O17: each store is one checked write of `rt`. -/
theorem stores : Obligations.Stores := by
  refine ⟨?_, ?_, ?_, fun s rt rs imm => ⟨?_, ?_, ?_⟩⟩
  iterate 3 exact immRow_of_decode fun w hop => by simp [decode, hop]
  iterate 3 exact checkedStore_of_memWrite rfl rfl

/-- Settles O18: each store writes back the aligned word, with the bytes on one side of the address replaced. -/
theorem unalignedStores : Obligations.UnalignedStores := by
  refine ⟨?_, ?_, fun s rt rs imm => ⟨checkedStore_swl s rt rs imm, checkedStore_swr s rt rs imm⟩⟩
  iterate 2 exact immRow_of_decode fun w hop => by simp [decode, hop]

/-- Settles O21: LWL merges into what LWR left pending, and each of the four bytes comes from the word that holds it. -/
theorem unalignedLoadPair : Obligations.UnalignedLoadPair := by
  intro s t rt rs rs' imm imm' r off off' b0 b1 b2 b3 a hal hmem hpass hpass' h0 h1 h2 h3 hexec haddr
  obtain ⟨t', ht', hdone, ⟨-, ⟨hsr, -⟩, -⟩, hkeeps, -, -⟩ := delivers_lwr (imm := imm) rt rfl hpass hmem
  obtain rfl : t' = t := Host.Outcome.next.inj (ht'.symm.trans hexec)
  have hbase := mergeBase_of_carried (s := sampleInputs t') hdone.load
  obtain ⟨u, hu, hdone', -⟩ := delivers_lwl rt haddr (passesChecks_of_sr_eq hsr hpass') hmem
  refine ⟨u, hu, hdone'.load.trans (congrArg (fun v => some (PendingLoad.mk rt v)) ?_)⟩
  have hbyte {j : Nat} {b : Byte} (hj : j < 4) (hb : HoldsByte s (a + BitVec.ofNat 32 j) r b) :
      byteOf (lwlMerge (a + 3) (mergeBase (sampleInputs t') rt)
        ((sampleInputs t').mem.readN (r.base + off' / 4 * 4) .word)) j = b := by
    obtain ⟨o, ho, rfl⟩ := hb
    obtain ⟨-, -, -, hreach, -⟩ := hpass
    obtain ⟨-, -, -, hreach', -⟩ := hpass'
    rw [hbase, byteOf_lwlMerge_lwrMerge hal _ _ _ hj, offset_eq_unalignedOffset hal hreach hreach' hj ho, unalignedOffset]
    split
    · rw [byteOf_readN_word _ _ (by omega), Nat.add_assoc, State.readByte]
    · rw [byteOf_readN_word _ _ (by omega), Nat.add_assoc]
      exact hkeeps _
  exact eq_of_byteOf_eq (hbyte (by decide) ((BitVec.add_zero a).symm ▸ h0)) (hbyte (by decide) h1) (hbyte (by decide) h2)
    (hbyte (by decide) h3)

/-- Settles O22: SWR stores the low bytes at the end of the address's word, SWL the others at the start of the next. -/
theorem unalignedStorePair : Obligations.UnalignedStorePair := by
  intro s t rt rs rs' imm imm' r off off1 off2 off' a hal hdev hpass hpass' hreach1 hreach2 hexec haddr hreg
  obtain ⟨t', ht', -, ⟨-, ⟨hsr, -⟩, -⟩, hswr, -, -⟩ := storesMemory_swr (imm := imm) rt rfl hpass hdev
  obtain rfl : t' = t := Host.Outcome.next.inj (ht'.symm.trans hexec)
  obtain ⟨u, hu, -, -, hswl, -, -⟩ := storesMemory_swl rt haddr (passesChecks_of_sr_eq hsr hpass') hdev
  rw [hreg, toNat_add_three_mod hal] at hswl
  obtain ⟨hbytes, hrest⟩ := storesBytes_pair (t' := sampleInputs t') (Nat.mod_lt _ (by decide)) hal hswr (fun _ => rfl) hswl
  obtain ⟨-, -, -, hreach, -⟩ := hpass
  obtain ⟨-, -, -, hreach3, -⟩ := hpass'
  have hreach0 : Reaches (a + BitVec.ofNat 32 0) r off := (BitVec.add_zero a).symm ▸ hreach
  have hbyte {j o : Nat} (hj : j < 4) (ho : Reaches (a + BitVec.ofNat 32 j) r o) :
      u.readByte (r.base + o) = byteOf (s.readReg rt) j := by
    rw [offset_eq_unalignedOffset hal hreach hreach3 hj ho, hbytes j hj]
  refine ⟨u, hu, hbyte (by decide) hreach0, hbyte (by decide) hreach1, hbyte (by decide) hreach2, hbyte (by decide) hreach3,
    fun c h0 h1 h2 h3 => hrest c fun j hj => ?_⟩
  have hne {o : Nat} (ho : Reaches (a + BitVec.ofNat 32 j) r o) (hc : c ≠ r.base + o) :
      c ≠ r.base + unalignedOffset (a.toNat % 4) off off' j := by
    rwa [← offset_eq_unalignedOffset hal hreach hreach3 hj ho]
  interval_cases j
  · exact hne hreach0 h0
  · exact hne hreach1 h1
  · exact hne hreach2 h2
  · exact hne hreach3 h3

end Sys2Proof.Proofs
end

section
/-! SUPPORT. System instructions and coprocessors (45_system_cop.md): rows of the decoder, the coprocessor-usable check (R296), what
MFC0, MTC0 and RFE stage (R293 to R295), and an access of user mode to an address with bit 31 set (R64). -/

namespace Sys2Proof.Machine

open Sys2Proof.Safety Sys2Proof.Claims

/-! ## Rows of the decoder (30_encoding.md R108 to R110) -/

theorem codeRow_of_decodeSpecial {f : BitVec 6} {i : BitVec 20 → Instr}
    (h : ∀ w, functField w = f → decodeSpecial w = .ok (i (codeField w))) : CodeRow f i :=
  fun w hop hf => (decode_special hop).trans (h w hf)

/-- Bit 25 is the top bit of the `rs` field. -/
theorem coBit_eq_msb_rsField (w : Word) : coBit w = (rsField w).msb := by
  simp [coBit, rsField, BitVec.msb_eq_getLsbD_last]

theorem moveRow_of_decodeCop0 {rs : BitVec 5} {i : RegNum → RegNum → Instr} (hrs : rs.msb = false)
    (h : ∀ w, coBit w = false → rsField w = rs → decodeCop0 w = .ok (i (rtField w) (rdField w))) : MoveRow rs i := by
  intro w hop hw
  have hfield : rsField w = rs := hw
  have hco : coBit w = false := by rw [coBit_eq_msb_rsField, hfield, hrs]
  exact (decode_cop0 hop).trans (h w hco hfield)

theorem decodeCop0_rfe {w : Word} (hco : coBit w = true) (hf : functField w = 0x10#6) : decodeCop0 w = .ok .rfe :=
  (if_pos hco).trans (if_pos hf)

/-- A COP0 word that is not MFC0, MTC0 or RFE (R110). -/
theorem decodeCop0_reserved {w : Word}
    (h : (coBit w = false ∧ rsField w ∉ [0x00#5, 0x04#5]) ∨ (coBit w = true ∧ functField w ≠ 0x10#6)) :
    decodeCop0 w = .error .cop0Reserved := by
  unfold decodeCop0
  rcases h with ⟨hco, hrs⟩ | ⟨hco, hf⟩
  · rw [if_neg (by simp [hco])]
    split
    on_goal -1 => rfl -- the default arm
    all_goals next hrs' => exact absurd (hrs' ▸ hrs) (by decide)
  · rw [if_pos hco, if_neg hf]

/-- A REGIMM word that is none of the four branches (R109). -/
theorem decodeRegimm_rejected {w : Word} (h : rtField w ∉ [0x00#5, 0x01#5, 0x10#5, 0x11#5]) :
    decodeRegimm w = .error .regimmAlias := by
  unfold decodeRegimm
  split
  on_goal -1 => rfl -- the default arm
  all_goals next hrt => exact absurd (hrt ▸ h) (by decide)

theorem runWord_rejected {w : Word} {e : DecodeError} (s : State) (h : decode w = .error e) :
    runWord w s = execUndecoded e s := by
  unfold runWord
  rw [h]

/-! ## The coprocessor-usable check (R296) -/

theorem copUsable_zero_iff (s : State) : s.copUsable 0 = true ↔ s.sr.getLsbD 1 = false ∨ s.sr.getLsbD 28 = true := by
  rw [← Bool.not_eq_true', ← Bool.or_eq_true]
  exact Iff.rfl

theorem copUsable_zero_of_user {s : State} (huser : s.sr.getLsbD 1 = true) (hcu : s.sr.getLsbD 28 = false) :
    s.copUsable 0 = false := by
  show (!s.sr.getLsbD 1 || s.sr.getLsbD 28) = false
  rw [huser, hcu]
  rfl

theorem whenUsable_of_usable {z : BitVec 2} {s : State} (h : s.copUsable z = true) (k : StepOutcome) : whenUsable z s k = k :=
  if_pos h

theorem whenUsable_of_not_usable {z : BitVec 2} {s : State} (h : s.copUsable z = false) (k : StepOutcome) :
    whenUsable z s k = raise (.cpU z) s :=
  if_neg (by simp [h])

/-- An instruction behind the check takes CpU where its coprocessor is not usable. -/
theorem traps_of_not_usable {i : Instr} {z : BitVec 2} {s : State} {k : StepOutcome} (hexec : exec i s = whenUsable z s k)
    (h : s.copUsable z = false) : Traps i s 11 none (some z) :=
  traps_of_exec (e := .cpU z) (hexec.trans (whenUsable_of_not_usable h k))

/-- COP1 to COP3 and their loads and stores: CpU, or past the check a refusal (R297, R298). -/
theorem refused_of_usable {i : Instr} {z : BitVec 2} {r : Refusal} {s : State} (hexec : exec i s = refuseCop z r s)
    (h : s.copUsable z = true) : exec i s = .refused r :=
  hexec.trans (whenUsable_of_usable h _)

/-- The exception that a COP0 word without an instruction takes: RI past the check, CpU before it (R299). -/
theorem execUndecoded_cop0Reserved (s : State) :
    execUndecoded .cop0Reserved s = raise (if s.copUsable 0 then .ri else .cpU 0) s := by
  show whenUsable 0 s (raise .ri s) = _
  unfold whenUsable
  split <;> rfl

/-! ## MFC0 (R293) -/

theorem delivers_mfc0 {s : State} {rd : RegNum} {v : Word} (rt : RegNum) (h : s.copUsable 0 = true)
    (hread : readCop0 s rd = some v) : Delivers (.mfc0 rt rd) s ⟨rt, v⟩ s.busLog :=
  delivers_of_exec rfl .none ((whenUsable_of_usable h _).trans (by rw [hread]))

theorem readCop0_eq_none {rd : RegNum} (s : State) (h : rd ∉ [8#5, 12#5, 13#5, 14#5, 15#5]) : readCop0 s rd = none := by
  simp only [List.mem_cons, List.not_mem_nil, or_false, not_or] at h
  simp only [readCop0, h, if_false]

theorem refused_mfc0 {s : State} {rd : RegNum} (rt : RegNum) (h : s.copUsable 0 = true)
    (hrd : rd ∉ [8#5, 12#5, 13#5, 14#5, 15#5]) : exec (.mfc0 rt rd) s = .refused .cop0RegisterUnmodelled :=
  (whenUsable_of_usable h _).trans (by rw [readCop0_eq_none s hrd])

/-! ## MTC0 and RFE (R294, R295) -/

/-- Cause with bits 9:8 of `v`. -/
def withSoftwareInterrupts (cause v : Word) : Word := (cause &&& 0xFFFFFCFF#32) ||| (v &&& 0x00000300#32)

theorem withSoftwareInterrupts_bit (cause v : Word) {k : Nat} (hk : k < 32) :
    (withSoftwareInterrupts cause v).getLsbD k = if k = 8 ∨ k = 9 then v.getLsbD k else cause.getLsbD k := by
  unfold withSoftwareInterrupts
  interval_cases k <;> simp

/-- MTC0 stages all of SR, bits 9:8 of Cause, or nothing. -/
theorem stageCop0_of_not_refused (s : State) {rd : RegNum} {v : Word} (h : ¬(rd = 7#5 ∧ v ≠ 0#32)) :
    stageCop0 s rd v = some
      { sr := if rd = 12#5 then some v else none
        cause := if rd = 13#5 then some (withSoftwareInterrupts s.cause v) else none } := by
  by_cases hsr : rd = 12#5
  · subst hsr
    rfl
  by_cases hcause : rd = 13#5
  · subst hcause
    rfl
  · simp only [stageCop0, hsr, hcause, h, if_false]

/-- The nonzero write to breakpoint control. -/
theorem stageCop0_refused (s : State) {v : Word} (h : v ≠ 0#32) : stageCop0 s 7#5 v = none :=
  if_pos (c := 7#5 = 7#5 ∧ v ≠ 0#32) ⟨rfl, h⟩

theorem exec_mtc0_of_usable {s : State} (rt rd : RegNum) (h : s.copUsable 0 = true) :
    exec (.mtc0 rt rd) s =
      (stageCop0 s rd (s.readReg rt)).elim (.refused .cop0RegisterUnmodelled) fun e => complete e s := by
  refine (whenUsable_of_usable h _).trans ?_
  cases stageCop0 s rd (s.readReg rt) <;> rfl

/-- Beside the step's own commit of the registers, the program counters and the delay slots, staging at most SR and Cause changes
nothing else. -/
theorem commit_status_keeps (s : State) (sr cause : Option Word) :
    let t := commit { sr := sr, cause := cause } s
    KeepsHiLo s t ∧ KeepsExceptionRegs s t ∧ KeepsInputs s t ∧ Ages s t ∧ KeepsMemory s t :=
  ⟨⟨rfl, rfl⟩, ⟨rfl, rfl⟩, ⟨rfl, rfl⟩, rfl, fun _ => rfl, rfl, rfl⟩

theorem exec_rfe_of_usable {s : State} (h : s.copUsable 0 = true) :
    exec .rfe s = .next (commit { sr := some (popStack s.sr) } s) :=
  whenUsable_of_usable h _

/-- RFE moves bits 5:2 of SR to bits 3:0 (R294). -/
theorem popStack_low (sr : Word) : (popStack sr).extractLsb' 0 4 = sr.extractLsb' 2 4 := by
  ext i hi
  simp only [BitVec.getElem_extractLsb', popStack_bit]
  rw [if_pos (by omega), Nat.zero_add, Nat.add_comm]

/-- RFE keeps every field of SR above bit 3 (R294). -/
theorem popStack_field (sr : Word) {start : Nat} (len : Nat) (h : 4 ≤ start) :
    (popStack sr).extractLsb' start len = sr.extractLsb' start len := by
  ext i hi
  simp only [BitVec.getElem_extractLsb', popStack_bit]
  rw [if_neg (by omega)]

/-- Exception entry leaves kernel mode, in which coprocessor 0 is usable (R296, R333). -/
theorem copUsable_zero_of_takenException {s t : State} {c : BitVec 5} {bad : Option Word} {ce : Option (BitVec 2)}
    (h : TakenException s t c bad ce) : t.copUsable 0 = true := by
  have hkernel := congrArg (fun v => v.getLsbD 1) h.kernel
  exact (copUsable_zero_iff t).2 (.inl (by simpa using hkernel))

/-- After exception entry the old pair of SR is the previous pair of before (R333). -/
theorem oldPair_of_takenException {s t : State} {c : BitVec 5} {bad : Option Word} {ce : Option (BitVec 2)}
    (h : TakenException s t c bad ce) : t.sr.extractLsb' 4 2 = s.sr.extractLsb' 2 2 := by
  ext i hi
  have hbit := congrArg (fun v => v.getLsbD (2 + i)) h.pushed
  have hin : 2 + i < 4 := by omega
  simpa [BitVec.getLsbD_extractLsb', hin, ← Nat.add_assoc] using hbit

/-! ## The privilege law (R301) -/

/-- The instructions that write SR or Cause as their own effect (R294, R295). -/
def WritesStatus (i : Instr) : Prop := (∃ rt rd, i = .mtc0 rt rd) ∨ i = .rfe

theorem traps_of_writesStatus {i : Instr} {s : State} (hi : WritesStatus i) (h : s.copUsable 0 = false) :
    Traps i s 11 none (some 0) := by
  rcases hi with ⟨rt, rd, rfl⟩ | rfl <;> exact traps_of_not_usable rfl h

/-- Every other instruction stages neither SR nor Cause. -/
theorem Staged.lawful.status_eq_none {e : Staged} {i : Instr} {s : State} (he : e.lawful i s) (hi : ¬WritesStatus i) :
    e.sr = none ∧ e.cause = none := by
  refine ⟨Option.eq_none_iff_forall_ne_some.2 fun v hv => hi ?_, Option.eq_none_iff_forall_ne_some.2 fun v hv => hi ?_⟩
  · exact (he.sr v hv).imp (fun ⟨rt, hrt, _⟩ => ⟨rt, 12#5, hrt⟩) And.left
  · obtain ⟨rt, hrt, -⟩ := he.cause v hv
    exact .inl ⟨rt, 13#5, hrt⟩

theorem Access.commit_keepsExceptionRegs {i : Instr} {s u : State} (h : Access i s u) (e : Staged) :
    KeepsExceptionRegs s (commit e u) := by
  rw [h.frame]
  exact ⟨rfl, rfl⟩

/-- A load from an address that user mode may not reach takes AdEL, aligned or not. -/
theorem loadTraps_of_forbidden {i : Instr} {s : State} {bad a : Word} {w : Width} {deliver : Word → PendingLoad}
    (h : CheckedLoad i s bad a w deliver) (hforbid : Forbidden s a) : Traps i s 4 (some bad) none := by
  by_cases hal : Aligned w a
  · exact h.forbidden hal hforbid
  · exact h.misaligned hal

/-- A store to an address that user mode may not reach takes AdES, aligned or not. -/
theorem storeTraps_of_forbidden {i : Instr} {s : State} {bad a : Word} {w : Width} {perform : Region → Nat → Prop}
    (h : CheckedStore i s bad a w perform) (hforbid : Forbidden s a) : Traps i s 5 (some bad) none := by
  by_cases hal : Aligned w a
  · exact h.forbidden hal hforbid
  · exact h.misaligned hal

theorem forbidden_alignedWord {s : State} {a : Word} (h : Forbidden s a) : Forbidden s (alignedWord a) := by
  rwa [← forbids_iff, ← wordAddress_eq_alignedWord, forbids_wordAddress, forbids_iff]

end Sys2Proof.Machine
end

section
/-! PROOFS. The statements about system instructions and coprocessors (45_system_cop.md). -/

namespace Sys2Proof.Proofs

open Sys2Proof.Machine Sys2Proof.Safety Sys2Proof.Claims

/-- Settles O29: each raises its exception and nothing else. -/
theorem softwareTraps : Obligations.SoftwareTraps := by
  refine ⟨?_, ?_, fun s code => ⟨traps_of_exec (e := .sys) rfl, traps_of_exec (e := .bp) rfl⟩⟩
  iterate 2 exact codeRow_of_decodeSpecial fun w hf => by simp [decodeSpecial, hf]

/-- Settles O30: past the check, the register's value is a pending load, or there is none to read. -/
theorem moveFromCop0 : Obligations.MoveFromCop0 := by
  refine ⟨moveRow_of_decodeCop0 rfl fun w hco hrs => by simp [decodeCop0, hco, hrs], fun s rt rd => ⟨fun husable => ?_,
    fun huser hcu => traps_of_not_usable rfl (copUsable_zero_of_user huser hcu)⟩⟩
  have h := (copUsable_zero_iff s).2 husable
  exact ⟨delivers_mfc0 rt h rfl, delivers_mfc0 rt h rfl, delivers_mfc0 rt h rfl, delivers_mfc0 rt h rfl,
    delivers_mfc0 rt h rfl, refused_mfc0 rt h⟩

/-- Settles O31: past the check, what MTC0 stages is committed, or the write is refused. -/
theorem moveToCop0 : Obligations.MoveToCop0 := by
  refine ⟨moveRow_of_decodeCop0 rfl fun w hco hrs => by simp [decodeCop0, hco, hrs], fun s rt rd => ⟨fun husable => ?_,
    fun huser hcu => traps_of_not_usable rfl (copUsable_zero_of_user huser hcu)⟩⟩
  have hexec := exec_mtc0_of_usable rt rd ((copUsable_zero_iff s).2 husable)
  refine ⟨fun haccepted => ?_, fun hrd hv => ?_⟩
  · rw [stageCop0_of_not_refused s haccepted] at hexec
    obtain ⟨hhiLo, hregs, hinputs, hage, hmem⟩ := commit_status_keeps s (if rd = 12#5 then some (s.readReg rt) else none)
      (if rd = 13#5 then some (withSoftwareInterrupts s.cause (s.readReg rt)) else none)
    refine ⟨_, hexec, commit_completed _ s, hhiLo, hregs, hinputs, hage, hmem, ?_, fun k hk => ?_⟩
    · rw [commit_sr]
      split <;> rfl
    · rw [commit_cause]
      by_cases hrd : rd = 13#5
      · simp only [hrd, if_true, true_and]
        exact withSoftwareInterrupts_bit _ _ hk
      · simp only [hrd, if_false, false_and]
        rfl
  · subst hrd
    rw [stageCop0_refused s hv] at hexec
    exact hexec

/-- Settles O32: past the check, RFE commits the popped stack. -/
theorem returnFromException : Obligations.ReturnFromException := by
  refine ⟨fun w hop hco hf => (decode_cop0 hop).trans (decodeCop0_rfe hco hf), fun s => ⟨fun husable => ?_,
    fun huser hcu => traps_of_not_usable rfl (copUsable_zero_of_user huser hcu)⟩⟩
  exact ⟨_, exec_rfe_of_usable ((copUsable_zero_iff s).2 husable), commit_completed _ s, popStack_low s.sr, popStack_high s.sr, rfl,
    commit_status_keeps s (some (popStack s.sr)) none⟩

/-- Settles O33: the usable check of each coprocessor reads its bit of SR. -/
theorem otherCoprocessors : Obligations.OtherCoprocessors := by
  refine ⟨?_, ?_, ?_, fun s c => ⟨fun h => ?_, fun h => ?_, fun h => ?_, fun h => ?_, fun h => ?_, fun h => ?_⟩⟩
  iterate 3 exact targetRow_of_decode fun w hop => by simp [decode, hop]
  iterate 3 exact traps_of_not_usable rfl h
  iterate 3 exact refused_of_usable rfl h

/-- Settles O34: LWC0 and SWC0 have no check, the others that of their coprocessor. -/
theorem coprocessorLoadsStores : Obligations.CoprocessorLoadsStores := by
  refine ⟨?_, ?_, ?_, ?_, ?_, ?_, ?_, ?_, fun s rt rs imm => ⟨rfl, rfl, fun h => ?_, fun h => ?_, fun h => ?_, fun h => ?_,
    fun h => ?_, fun h => ?_⟩⟩
  iterate 8 exact immRow_of_decode fun w hop => by simp [decode, hop]
  iterate 3 exact ⟨traps_of_not_usable rfl h, traps_of_not_usable rfl h⟩
  iterate 3 exact ⟨refused_of_usable rfl h, refused_of_usable rfl h⟩

/-- Settles O36: what the decoder rejects such a word with, and what the rejected word does. -/
theorem otherWords : Obligations.OtherWords := by
  intro w s op rs rt
  refine ⟨fun hop hrt => ?_, fun hop hword => ?_⟩
  · exact runWord_rejected s ((decode_regimm hop).trans (decodeRegimm_rejected hrt))
  · have hrun := (runWord_rejected s ((decode_cop0 hop).trans (decodeCop0_reserved hword))).trans (execUndecoded_cop0Reserved s)
    refine ⟨fun husable => ?_, fun huser hcu => ?_⟩
    · rw [if_pos ((copUsable_zero_iff s).2 husable)] at hrun
      exact ⟨_, hrun, takeException_taken .ri s⟩
    · rw [copUsable_zero_of_user huser hcu] at hrun
      exact ⟨_, hrun, takeException_taken (.cpU 0) s⟩

/-- Settles O38: entry leaves kernel mode, so RFE completes, and its pop undoes the push. -/
theorem stackRoundTrip : Obligations.StackRoundTrip := by
  intro s t c bad ce htaken
  refine ⟨_, exec_rfe_of_usable (copUsable_zero_of_takenException htaken), ?_, ?_, ?_⟩
  · exact (popStack_low t.sr).trans htaken.pushed
  · exact (popStack_field t.sr 26 (by decide)).trans htaken.srRest
  · exact (popStack_field t.sr 2 (by decide)).trans (oldPair_of_takenException htaken)

/-- Settles O39: the writers of SR and Cause take CpU, every other instruction stages neither, and the checks of an access and of a
fetch come to an address error first, by alignment or by privilege. -/
theorem privilegeLaw : Obligations.PrivilegeLaw := by
  intro s huser
  refine ⟨fun hcu i t ht => ?_, fun rt rs imm hbit => ?_, fun hbit hint => ?_⟩
  · by_cases hi : WritesStatus i
    · obtain ⟨t', ht', htaken⟩ := traps_of_writesStatus hi (copUsable_zero_of_user huser hcu)
      obtain rfl := Host.Outcome.next.inj (ht'.symm.trans ht)
      exact .inl ⟨_, _, _, htaken⟩
    · rcases exec_ends ht with ⟨e, -, rfl⟩ | ⟨e, u, hu, he, rfl⟩
      · exact .inl ⟨_, _, _, takeException_taken e s⟩
      · obtain ⟨hsr, hcause⟩ := he.status_eq_none hi
        refine .inr ⟨⟨?_, ?_⟩, hu.commit_keepsExceptionRegs e⟩
        · rw [commit_sr, hsr, Option.getD_none, hu.sr_eq]
        · rw [commit_cause, hcause, Option.getD_none, hu.cause_eq]
  · have hforbid : Forbidden s (address s rs imm) := ⟨huser, hbit⟩
    have hforbidWord := forbidden_alignedWord hforbid
    obtain ⟨-, -, -, -, -, hloads⟩ := loads
    obtain ⟨hlb, hlbu, hlh, hlhu, hlw⟩ := hloads s rt rs imm
    obtain ⟨-, -, -, hstores⟩ := stores
    obtain ⟨hsb, hsh, hsw⟩ := hstores s rt rs imm
    simp only [List.forall_mem_cons, List.not_mem_nil, false_imp_iff, implies_true, and_true]
    exact ⟨⟨loadTraps_of_forbidden hlb hforbid, loadTraps_of_forbidden hlbu hforbid, loadTraps_of_forbidden hlh hforbid,
        loadTraps_of_forbidden hlhu hforbid, loadTraps_of_forbidden hlw hforbid,
        loadTraps_of_forbidden (checkedLoad_lwl s rt rs imm) hforbidWord,
        loadTraps_of_forbidden (checkedLoad_lwr s rt rs imm) hforbidWord⟩,
      storeTraps_of_forbidden hsb hforbid, storeTraps_of_forbidden hsh hforbid, storeTraps_of_forbidden hsw hforbid,
      storeTraps_of_forbidden (checkedStore_swl s rt rs imm) hforbidWord,
      storeTraps_of_forbidden (checkedStore_swr s rt rs imm) hforbidWord⟩
  · obtain ⟨hmisaligned, hforbidden, -⟩ := fetchRule s hint
    by_cases hal : Aligned .word s.pc
    · exact hforbidden hal ⟨huser, hbit⟩
    · exact hmisaligned hal

end Sys2Proof.Proofs
end

section
/-! SUPPORT. What an instruction ends in (60_exceptions.md R320, R323, R337): the exceptions that an instruction takes, what the
commit after an access keeps, and the stops of each shape of a meaning. -/

namespace Sys2Proof.Machine

open Sys2Proof.Safety Sys2Proof.Claims

/-! ## The exceptions of an instruction (R320, R334) -/

theorem Exc.ofInstruction.code_mem {e : Exc} (he : e.ofInstruction) : e.code.toNat ∈ [4, 5, 7, 8, 9, 11, 12] := by
  cases e with
  | int | ibe | ri => exact he.elim
  | adEL | adES | dbe | sys | bp | cpU | ov => simp [Exc.code]

/-- An exception reports an address exactly when it is an address error. -/
theorem Exc.reports_ne_none_iff (e : Exc) : e.reports ≠ none ↔ e.code.toNat = 4 ∨ e.code.toNat = 5 := by
  cases e <;> simp [Exc.reports, Exc.code]

theorem Access.commit_keepsInputs {i : Instr} {s u : State} (h : Access i s u) (e : Staged) : KeepsInputs s (commit e u) := by
  rw [h.frame]
  exact ⟨rfl, rfl⟩

/-! ## The stops of an instruction (R323) -/

/-- The outcome is a next state, or a fault or a refusal of `i` for the reason and in the case that its rule names. -/
def StopsAsNamed (i : Instr) (s : State) : StepOutcome → Prop
  | .next _ => True
  | .fault f =>
    (f = .hiLoHazard ∧ writesHiLo i = true ∧ 0 < s.hiloAge) ∨ (f = .deviceContractViolation ∧ DeviceFaults i s)
  | .refused r => RefusedFor i s r

section
variable {i : Instr} {s : State}

/-- The hazard check of R201. -/
theorem writeHiLo_stopsAsNamed (hi : writesHiLo i = true) (e : Staged) : StopsAsNamed i s (writeHiLo e s) := by
  unfold writeHiLo
  split
  · next hage => exact .inl ⟨rfl, hi, hage⟩
  · trivial

theorem completeOrOverflow_stopsAsNamed (o : Bool) (r : RegNum) (v : Word) :
    StopsAsNamed i s (completeOrOverflow o r v s) := by
  cases o <;> trivial

theorem completeBranchLink_stopsAsNamed {rs : RegNum} (c : Bool) (imm : BitVec 16)
    (hi : rs = 31#5 → RefusedFor i s .linkRegisterAsCondition) : StopsAsNamed i s (completeBranchLink rs c imm s) := by
  unfold completeBranchLink
  split
  · next hrs => exact hi hrs
  · trivial

theorem whenUsable_stopsAsNamed {z : BitVec 2} {k : StepOutcome} (hk : s.copUsable z = true → StopsAsNamed i s k) :
    StopsAsNamed i s (whenUsable z s k) := by
  unfold whenUsable
  split
  · next husable => exact hk husable
  · trivial

/-! ### Loads and stores: the checks in their order, and the device past them (20_memory.md R71 to R76) -/

section
variable {a : Word} (ha : accessAddress s i = some a)
include ha

/-- The checks of an access stop only for byte order, isolation and SCRATCH through KSEG1 (R83, R84, R96). -/
theorem checkAccess_stopsAsNamed {α : Type} {err : Exc} {isolated : Res α} {w : Width} {k : Target → Res α}
    {c : α → StepOutcome} (hi : (isLoad i || isStore i) = true)
    (hisolated : Isolated s → StopsAsNamed i s (isolated.settle s c))
    (hk : ∀ r off, Reaches a r off → StopsAsNamed i s ((k ⟨r, off⟩).settle s c)) :
    StopsAsNamed i s ((checkAccess s err isolated a w k).settle s c) := by
  unfold checkAccess
  split -- alignment
  · trivial
  split -- privilege
  · trivial
  split -- byte order
  · next hrev => exact ⟨hi, (reversed_iff s).1 hrev⟩
  split -- isolation
  · next hiso => exact hisolated hiso
  rcases hroute : route a with _ | ⟨r, off⟩
  · trivial
  · have hreach : Reaches a r off := route_reaches hroute
    rw [Option.elim_some]
    split -- SCRATCH through KSEG1
    · next halias => exact ⟨hi, a, r, off, ⟨ha, hreach⟩, (scratchAlias_iff a r off).1 halias⟩
    · exact hk r off hreach

/-- A device fault at the place that the access reaches. -/
theorem deviceFault_stopsAsNamed {r : Region} {off : Nat} (hreach : Reaches a r off)
    (hfault : (isStore i = true ∧ r.device = .bios) ∨
      (¬IsMemory r ∧ ∃ op, issues s r.device off i = some op ∧ Config.deviceAnswer s.tick s.busLog op = none)) :
    StopsAsNamed i s (.fault .deviceContractViolation) :=
  .inr ⟨rfl, a, r, off, ⟨ha, hreach⟩, hfault⟩

/-- A load stops past its checks only where its own read of an external device is not answered. -/
theorem loadInto_stopsAsNamed (rt : RegNum) (bad : Word) {w : Width} (f : Word → Word) (hi : isLoad i = true)
    (hissues : ∀ d off, issues s d off i = some (.read d off w)) : StopsAsNamed i s (loadInto s rt bad a w f) := by
  rw [loadInto, memRead_eq_checkAccess]
  refine checkAccess_stopsAsNamed ha (by rw [hi, Bool.true_or]) (fun hiso => ⟨hi, hiso⟩) fun r off hreach => ?_
  by_cases hmem : IsMemory r
  · rw [deviceRead_memory hmem]
    trivial
  · rw [deviceRead_external hmem]
    rcases hans : Config.deviceAnswer s.tick s.busLog (.read r.device off w) with _ | v
    · exact deviceFault_stopsAsNamed ha hreach (.inr ⟨hmem, _, hissues r.device off, hans⟩)
    · trivial

/-- The write of a store stops only at BIOS, or where an external device does not answer it. -/
theorem deviceWrite_stopsAsNamed {r : Region} {off : Nat} {w : Width} {v : Word} (hi : isStore i = true)
    (hreach : Reaches a r off)
    (hissues : ¬IsMemory r → issues s r.device off i = some (.write r.device off w (cut w v))) :
    StopsAsNamed i s (((deviceWrite s ⟨r, off⟩ w v).elim (.fault .deviceContractViolation) fun u =>
      Res.ok (noteStore ⟨r, off⟩ u)).settle s (complete {})) := by
  by_cases hdev : r.device = .ram ∨ r.device = .scratch
  · rw [deviceWrite_writable hdev]
    trivial
  by_cases hbios : r.device = .bios
  · rw [deviceWrite_bios hbios]
    exact deviceFault_stopsAsNamed ha hreach (.inl ⟨hi, hbios⟩)
  · have hext := not_isMemory_of_not_device hdev hbios
    rw [deviceWrite_external hext]
    rcases hans : Config.deviceAnswer s.tick s.busLog (.write r.device off w (cut w v)) with _ | _
    · exact deviceFault_stopsAsNamed ha hreach (.inr ⟨hext, _, hissues hext, hans⟩)
    · trivial

theorem memWrite_stopsAsNamed {w : Width} {v : Word} (hi : isStore i = true)
    (hissues : ∀ d off, issues s d off i = some (.write d off w (cut w v))) :
    StopsAsNamed i s (storeTo s (memWrite s a w v)) := by
  rw [storeTo, memWrite_eq_checkAccess]
  exact checkAccess_stopsAsNamed ha (by rw [hi, Bool.or_true]) (fun _ => trivial) fun r off hreach =>
    deviceWrite_stopsAsNamed ha hi hreach fun _ => hissues r.device off

end

/-- A partial store is refused at an external device, so its write stops only at BIOS (44_load_store.md R254). -/
theorem memMerge_stopsAsNamed {a : Word} (f : Word → Word) (ha : accessAddress s i = some (alignedWord a))
    (hi : isStore i = true) (hpartial : (∃ rt m rs, i = .swl rt m rs) ∨ (∃ rt m rs, i = .swr rt m rs)) :
    StopsAsNamed i s (storeTo s (memMerge s a f)) := by
  rw [storeTo, memMerge_eq_checkAccess, wordAddress_eq_alignedWord]
  refine checkAccess_stopsAsNamed ha (by rw [hi, Bool.or_true]) (fun _ => trivial) fun r off hreach => ?_
  split
  · next hmem => exact deviceWrite_stopsAsNamed ha hi hreach fun hext => absurd ((isMemory_iff r).1 hmem) hext
  · next hext => exact ⟨hpartial, _, r, off, ⟨ha, hreach⟩, mt (isMemory_iff r).2 hext⟩

end

/-- The form of JALR that R226 refuses. -/
theorem execJalr_stopsAsNamed (rd rs : RegNum) (s : State) : StopsAsNamed (.jalr rd rs) s (execJalr rd rs s) := by
  unfold execJalr
  split
  · next h =>
    obtain ⟨rfl, hrd⟩ := h
    exact ⟨rd, hrd, rfl⟩
  · trivial

theorem readCop0_ne_none {rd : RegNum} (s : State) (h : rd ∈ [8#5, 12#5, 13#5, 14#5, 15#5]) : readCop0 s rd ≠ none := by
  simp only [List.mem_cons, List.not_mem_nil, or_false] at h
  rcases h with rfl | rfl | rfl | rfl | rfl <;> exact Option.some_ne_none _

/-- Past the usable check MFC0 is refused for a register that is not readable (R293). -/
theorem execMfc0_stopsAsNamed (rt rd : RegNum) (s : State) : StopsAsNamed (.mfc0 rt rd) s (execMfc0 rt rd s) := by
  refine whenUsable_stopsAsNamed fun _ => ?_
  split
  · trivial
  · next hnone => exact .inl ⟨rt, rd, rfl, fun hrd => readCop0_ne_none s hrd hnone⟩

/-- Past the usable check MTC0 is refused for a nonzero write to breakpoint control (R295). -/
theorem execMtc0_stopsAsNamed (rt rd : RegNum) (s : State) : StopsAsNamed (.mtc0 rt rd) s (execMtc0 rt rd s) := by
  refine whenUsable_stopsAsNamed fun _ => ?_
  by_cases hrefused : rd = 7#5 ∧ s.readReg rt ≠ 0#32
  · obtain ⟨rfl, hv⟩ := hrefused
    rw [stageCop0_refused s hv]
    exact .inr ⟨rt, rfl, hv⟩
  · rw [stageCop0_of_not_refused s hrefused]
    trivial

/-- Every instruction stops only for the reason and in the case that its rule names. -/
theorem exec_stopsAsNamed (i : Instr) (s : State) : StopsAsNamed i s (exec i s) := by
  cases i with
  | sll | srl | sra | sllv | srlv | srav | addu | subu | and | or | xor | nor | slt | sltu | addiu | slti | sltiu | andi
  | ori | xori | lui => trivial
  | add | sub | addi => exact completeOrOverflow_stopsAsNamed ..
  | mult | multu | div | divu | mthi | mtlo => exact writeHiLo_stopsAsNamed rfl _
  | mfhi | mflo | j | jal | jr | beq | bne | blez | bgtz | bltz | bgez | syscall | brk => trivial
  | jalr rd rs => exact execJalr_stopsAsNamed rd rs s
  | bltzal rs imm => exact completeBranchLink_stopsAsNamed _ _ fun hrs => .inl ⟨imm, by rw [hrs]⟩
  | bgezal rs imm => exact completeBranchLink_stopsAsNamed _ _ fun hrs => .inr ⟨imm, by rw [hrs]⟩
  | lb | lbu | lh | lhu => exact loadInto_stopsAsNamed rfl _ _ _ rfl fun _ _ => rfl
  | lw => exact loadInto_stopsAsNamed rfl _ _ (fun v => v) rfl fun _ _ => rfl
  | lwl | lwr => exact loadInto_stopsAsNamed (by rw [wordAddress_eq_alignedWord]; rfl) _ _ _ rfl fun _ _ => rfl
  | sb | sh | sw => exact memWrite_stopsAsNamed rfl rfl fun _ _ => rfl
  | swl rt imm rs => exact memMerge_stopsAsNamed _ rfl rfl (.inl ⟨rt, imm, rs, rfl⟩)
  | swr rt imm rs => exact memMerge_stopsAsNamed _ rfl rfl (.inr ⟨rt, imm, rs, rfl⟩)
  | mfc0 rt rd => exact execMfc0_stopsAsNamed rt rd s
  | mtc0 rt rd => exact execMtc0_stopsAsNamed rt rd s
  | rfe => exact whenUsable_stopsAsNamed fun _ => trivial
  | cop1 c => exact whenUsable_stopsAsNamed fun h => .inl ⟨h, .inl ⟨c, rfl⟩⟩
  | cop2 c => exact whenUsable_stopsAsNamed fun h => ⟨h, .inl ⟨c, rfl⟩⟩
  | cop3 c => exact whenUsable_stopsAsNamed fun h => .inr ⟨h, .inl ⟨c, rfl⟩⟩
  | lwc0 rt imm rs => exact .inl ⟨rt, imm, rs, rfl⟩
  | lwc1 rt imm rs => exact whenUsable_stopsAsNamed fun h => .inl ⟨h, .inr (.inl ⟨rt, imm, rs, rfl⟩)⟩
  | lwc2 rt imm rs => exact whenUsable_stopsAsNamed fun h => ⟨h, .inr (.inl ⟨rt, imm, rs, rfl⟩)⟩
  | lwc3 rt imm rs => exact whenUsable_stopsAsNamed fun h => .inr ⟨h, .inr (.inl ⟨rt, imm, rs, rfl⟩)⟩
  | swc0 rt imm rs => exact .inr ⟨rt, imm, rs, rfl⟩
  | swc1 rt imm rs => exact whenUsable_stopsAsNamed fun h => .inl ⟨h, .inr (.inr ⟨rt, imm, rs, rfl⟩)⟩
  | swc2 rt imm rs => exact whenUsable_stopsAsNamed fun h => ⟨h, .inr (.inr ⟨rt, imm, rs, rfl⟩)⟩
  | swc3 rt imm rs => exact whenUsable_stopsAsNamed fun h => .inr ⟨h, .inr (.inr ⟨rt, imm, rs, rfl⟩)⟩

/-! ## Interrupts (R345) -/

/-- A step that takes an interrupt runs nothing else. -/
theorem step_of_interrupt {s : State} (h : InterruptTaken s) : step s = raise .int (sampleInputs s) :=
  if_pos ((interruptDue_sampleInputs_iff s).2 h)

end Sys2Proof.Machine
end

section
/-! PROOFS. The statements about exceptions and interrupts (60_exceptions.md). -/

namespace Sys2Proof.Proofs

open Sys2Proof.Machine Sys2Proof.Safety Sys2Proof.Claims

/-- Settles O41: an instruction ends in one of its exceptions, or in the commit of what its rule lets it stage. -/
theorem preciseExceptions : Obligations.PreciseExceptions := by
  intro i s t ht
  rcases exec_ends ht with ⟨e, he, rfl⟩ | ⟨e, u, hu, he, rfl⟩
  · exact .inr ⟨_, _, _, takeException_taken e s, he.code_mem, e.reports_ne_none_iff⟩
  · exact .inl ⟨_, _, _, hu.completed e, he.write, he.load, he.branch, he.origin, hu.commit_keepsExceptionRegs e,
      hu.commit_keepsInputs e⟩

/-- Settles O42: each stop of an instruction's meaning is one that its rule names. -/
theorem stopsOnlyWhereNamed : Obligations.StopsOnlyWhereNamed := by
  intro i s
  have hnamed := exec_stopsAsNamed i s
  refine ⟨fun f hf => ?_, fun r hr => ?_⟩
  · rwa [hf] at hnamed
  · rwa [hr] at hnamed

/-- Settles O43: the interrupt test comes before the fetch and fails in a delay slot, where the step runs the word at pc. -/
theorem interrupts : Obligations.Interrupts := by
  intro s
  refine ⟨fun hint => ?_, fun hslot r off i hpass hmem hdecode => ?_⟩
  · have htaken := takeException_taken .int (sampleInputs s)
    have hepc := htaken.epc
    rw [sampleInputs_pendingBranch, hint.1] at hepc
    exact ⟨_, step_of_interrupt hint, htaken, hepc⟩
  · rw [wordAt_eq_readN] at hdecode
    exact stepRunsDecoded s r off i (fun hint => hslot hint.1) hpass hmem hdecode

end Sys2Proof.Proofs
end

section
/-! SUPPORT. Where a run starts: a word placed for the next step (log 6), and the reset state, which power-on leaves with a firmware
image and the reset operation with the memory as it was (70_reset_and_hazards.md R370, R371, R375, R377). -/

namespace Sys2Proof.Machine

open Sys2Proof.Safety Sys2Proof.Claims

/-! ## A word placed where the next step fetches (R377; log 6) -/

/-- Placing writes the word, and takes off its stale mark. -/
theorem placeWord_of_reaches {s : State} {r : Region} {off : Nat} (hreach : Reaches s.pc r off) (hmem : IsMemory r) (w : Word) :
    placeWord s w = { s with
      mem := s.mem.writeN (r.base + off) w .word
      icacheStale := s.icacheStale.filter fun m => m != (r.device, off) } := by
  simp only [placeWord, route_of_reaches hreach, Target.device, (isMemory_iff r).2 hmem, if_true, Target.cell]

/-- The step cycle runs the instruction that the word at pc decodes to (R130, R134). -/
theorem step_of_decode_wordAt {s : State} {r : Region} {off : Nat} {i : Instr} (hint : ¬InterruptTaken s)
    (hpass : PassesFetch s r off) (hmem : IsMemory r) (hdecode : decode (wordAt s (r.base + off)) = .ok i) :
    step s = exec i (sampleInputs s) := by
  rw [wordAt_eq_readN] at hdecode
  exact Proofs.stepRunsDecoded s r off i hint hpass hmem hdecode

/-- A placed word is run by the next step: its stale mark is gone, and the other checks look at nothing that placing changes. -/
theorem step_placeWord {s : State} {r : Region} {off : Nat} {w : Word} {i : Instr} (hint : ¬InterruptTaken s)
    (hal : Aligned .word s.pc) (hforbid : ¬Forbidden s s.pc) (hrev : ¬Reversed s) (hreach : Reaches s.pc r off)
    (hdev : r.device = .ram ∨ r.device = .bios) (hdecode : decode w = .ok i) :
    step (placeWord s w) = exec i (sampleInputs (placeWord s w)) := by
  have hmem : IsMemory r := hdev.imp_right .inr
  have hscratch : r.device ≠ .scratch := by rcases hdev with h | h <;> rw [h] <;> decide
  rw [placeWord_of_reaches hreach hmem]
  refine step_of_decode_wordAt hint ⟨hal, hforbid, hrev, hreach, hscratch, fun ⟨_, hmark⟩ => ?_⟩ hmem ?_
  · simp at hmark
  · rw [wordAt_eq_readN, Memory.readN_writeN_word, hdecode]

/-- A word given as a number of 32 bits is that word. -/
theorem tableWord_toNat (w : Word) : tableWord 32 w.toNat = w := by
  rw [tableWord, Nat.mod_eq_of_lt w.isLt, BitVec.ofNat_toNat, BitVec.setWidth_eq]

/-! ## The first step from the reset entry (R371) -/

/-- The region of the firmware (R66). -/
def firmwareRegion : Region := ⟨.bios, 0x1FC00000, 0x00080000, 0x00080000⟩

section
variable {s : State} (hpc : s.pc = Config.resetPc) (hsr : s.sr = Config.srReset)
include hsr

/-- With the SR of reset no interrupt is enabled. -/
theorem not_interruptTaken_of_srReset : ¬InterruptTaken s := by
  rintro ⟨-, henabled, -⟩
  rw [sampleInputs_sr, hsr] at henabled
  exact absurd henabled (by decide)

include hpc

/-- The reset entry is BIOS offset 0 in KSEG1: kernel mode may fetch it, and no stale mark stops it. -/
theorem passesFetch_resetEntry : PassesFetch s firmwareRegion 0 := by
  have hkernel : ¬s.sr.getLsbD 1 = true := by rw [hsr]; decide
  refine ⟨?_, fun hforbid => hkernel hforbid.1, fun hrev => hkernel hrev.1, ?_, by decide, fun hstale => ?_⟩
  · rw [hpc]; decide
  · rw [hpc]; decide
  · exact absurd (hpc ▸ hstale.1) (by decide)

/-- The step at the reset entry runs the instruction at BIOS offset 0. -/
theorem step_resetEntry {i : Instr} (hdecode : decode (wordAt s 0x1FC00000) = .ok i) : step s = exec i (sampleInputs s) :=
  step_of_decode_wordAt (not_interruptTaken_of_srReset hsr) (passesFetch_resetEntry hpc hsr) (.inr (.inr rfl)) hdecode

end

/-! ## The reset operation (R370) -/

theorem hostReset_readReg (s : State) (r : RegNum) : s.hostReset.readReg r = 0 := by
  simp [State.readReg, getReg]

/-- The word at a cell is read from the memory alone. -/
theorem wordAt_hostReset (s : State) (cell : Nat) : wordAt s.hostReset cell = wordAt s cell := by
  rw [wordAt_eq_readN, wordAt_eq_readN, hostReset_mem]

/-! ## Power-on (R375) -/

/-- The reset state with a firmware image in BIOS and the lines of the host. -/
def poweredOn (image : List Byte) (lines : List (BitVec 6)) : State :=
  { State.reset with mem := Memory.load [] 0x1FC00000 image, intLines := lines }

/-- Power-on loads an image that BIOS can hold, and nothing else. -/
theorem powerOn_eq (image : List Byte) (lines : List (BitVec 6)) :
    State.powerOn image lines =
      if 0 < image.length ∧ image.length ≤ 0x80000 then some (poweredOn image lines) else none :=
  if_congr (and_iff_right regionTable_wf) rfl rfl

theorem memoryCell_of_firmwareCell {c : Nat} (h : firmwareCell c = true) : memoryCell c = true :=
  List.any_eq_true.2 ⟨firmwareRegion, by decide, h⟩

/-- An image that BIOS can hold lists cells of BIOS only. -/
theorem memoryCell_of_mem_load {image : List Byte} (hlen : image.length ≤ 0x80000) {c : Host.Cell}
    (hc : c ∈ Memory.load [] 0x1FC00000 image) : memoryCell c.1 = true := by
  rcases Memory.mem_load hc with ⟨hlow, hhigh⟩ | hnil
  · have hbelow : c.1 < 0x1FC80000 := by omega
    exact memoryCell_of_firmwareCell (by simp [firmwareCell, hlow, hbelow])
  · exact nomatch hnil

/-- Power-on leaves a launch state: it is a reset of itself, so the invariant is that of its memory. -/
theorem poweredOn_launchState {image : List Byte} (lines : List (BitVec 6)) (hlen : image.length ≤ 0x80000) :
    LaunchState (poweredOn image lines) where
  table := regionTable_wf
  aligned := show Config.resetPc.toNat % 4 = 0 by decide
  core := hostReset_coreInv (s := poweredOn image lines) (Memory.load_wf .nil ..) fun _ hc => memoryCell_of_mem_load hlen hc

/-- After power-on BIOS holds the image. -/
theorem poweredOn_readByte_image {image : List Byte} (lines : List (BitVec 6)) {k : Nat} (hk : k < image.length) :
    (poweredOn image lines).readByte (0x1FC00000 + k) = image[k] := by
  refine (Memory.read_load [] 0x1FC00000 image _).trans ?_
  rw [if_pos (Nat.le_add_right _ k), Nat.add_sub_cancel_left, List.getD_eq_getElem _ _ hk]

/-- After power-on every byte outside the image is that of the reset state. -/
theorem poweredOn_readByte_outside {image : List Byte} (lines : List (BitVec 6)) {c : Nat}
    (hc : c < 0x1FC00000 ∨ 0x1FC00000 + image.length ≤ c) : (poweredOn image lines).readByte c = State.reset.readByte c := by
  refine (Memory.read_load [] 0x1FC00000 image c).trans ?_
  split
  · exact List.getD_eq_default _ _ (by omega)
  · rfl

/-- After power-on the word at BIOS offset 0 is that of the image's first four bytes. -/
theorem wordAt_poweredOn (b0 b1 b2 b3 : Byte) (rest : List Byte) (lines : List (BitVec 6)) :
    wordAt (poweredOn (b0 :: b1 :: b2 :: b3 :: rest) lines) 0x1FC00000 = wordOfBytes b0 b1 b2 b3 := by
  simp [wordAt_eq_readN, poweredOn, Memory.readN, Memory.read_load]

end Sys2Proof.Machine
end

section
/-! PROOFS. The statements about reset, power-on and the placement of a word (70_reset_and_hazards.md). -/

namespace Sys2Proof.Proofs

open Sys2Proof.Machine Sys2Proof.Safety Sys2Proof.Claims

/-- Settles O47: the placed word decodes to the instruction, and the next step runs it. -/
theorem placedWordRuns : Obligations.PlacedWordRuns := by
  intro s r off i hint hal hforbid hrev hreach hdev
  rw [State.withFetchWord, tableWord_toNat]
  exact step_placeWord hint hal hforbid hrev hreach hdev (decode_encode i)

/-- Settles O52: power-on loads exactly the images that BIOS can hold, and leaves the reset state with the image's first word at the
reset entry. -/
theorem powerOn : Obligations.PowerOn := by
  intro image lines
  rw [powerOn_eq]
  refine ⟨fun hbad => if_neg ?_, fun hne hlen => ⟨poweredOn image lines, ?_, poweredOn_launchState lines hlen, rfl,
    fun k hk => poweredOn_readByte_image lines hk, fun c hc => poweredOn_readByte_outside lines hc, ?_⟩⟩
  · rintro ⟨hpos, hlen⟩
    rcases hbad with rfl | hlong
    · exact absurd hpos (Nat.lt_irrefl 0)
    · omega
  · exact if_pos ⟨List.length_pos_iff.2 hne, hlen⟩
  · rintro b0 b1 b2 b3 rest i rfl hdecode
    exact step_resetEntry rfl rfl ((wordAt_poweredOn b0 b1 b2 b3 rest lines).symm ▸ hdecode)

/-- Settles O53: reset leaves pc at BIOS offset 0 with interrupts disabled, and SR.BEV set. -/
theorem firstStepAfterReset : Obligations.FirstStepAfterReset := by
  intro s i hdecode
  refine ⟨step_resetEntry rfl rfl ((wordAt_hostReset s 0x1FC00000).symm ▸ hdecode), fun t c bad ce htaken => ?_⟩
  exact htaken.pc.trans (if_pos (show Config.srReset.getLsbD 22 = true by decide))

/-- Settles O51: the reset operation sets every field but the memory and what stands for the devices, the lines and the draws. -/
theorem resetOperation : Obligations.ResetOperation := by
  intro s
  exact ⟨hostReset_readReg s, rfl, rfl, rfl, rfl, rfl, rfl, rfl, rfl, rfl, rfl, fun _ => rfl, rfl, rfl⟩

end Sys2Proof.Proofs
end

section
/-! SUPPORT. The opcode table and the decoder (30_encoding.md R107 to R110): a word stands in an instruction's row exactly when it
agrees with the encoded instruction in the fields that the row's mask covers, and those are the fields that the decoder reads. -/

namespace Sys2Proof

open Laws.EncodedInRow (rType_masked codeType_masked iType_masked regimm_masked jType_masked moveType_masked)

/-! ## Words that agree under a mask -/

theorem masked_eq_iff {w v m : Word} :
    w &&& m = v &&& m ↔ ∀ k < 32, m.getLsbD k = true → w.getLsbD k = v.getLsbD k := by
  refine ⟨fun h k _ hk => ?_, fun h => BitVec.eq_of_getLsbD_eq fun k hk => ?_⟩
  · simpa [hk] using congrArg (BitVec.getLsbD · k) h
  · cases hm : m.getLsbD k
    · simp [hm]
    · simp [hm, h k hk hm]

/-- A mask made of two masks covers what both cover. -/
theorem masked_or_eq_iff {w v m n : Word} : w &&& (m ||| n) = v &&& (m ||| n) ↔ w &&& m = v &&& m ∧ w &&& n = v &&& n := by
  simp only [masked_eq_iff, BitVec.getLsbD_or, Bool.or_eq_true, or_imp, forall_and]

theorem field_eq_iff {w v : Word} {a n : Nat} :
    w.extractLsb' a n = v.extractLsb' a n ↔ ∀ k < n, w.getLsbD (a + k) = v.getLsbD (a + k) := by
  refine ⟨fun h k hk => ?_, fun h => BitVec.eq_of_getLsbD_eq fun k hk => ?_⟩
  · simpa [hk] using congrArg (BitVec.getLsbD · k) h
  · simp [hk, h k hk]

/-- The mask that covers the field of `n` bits from bit `a` up. -/
def fieldMask (a n : Nat) : Word := (BitVec.allOnes n).setWidth 32 <<< a

theorem getLsbD_fieldMask {a n k : Nat} (hk : k < 32) : (fieldMask a n).getLsbD k = decide (a ≤ k ∧ k < a + n) := by
  unfold fieldMask
  grind

theorem fieldMasked_eq_iff {w v : Word} {a n : Nat} (h : a + n ≤ 32) :
    w &&& fieldMask a n = v &&& fieldMask a n ↔ w.extractLsb' a n = v.extractLsb' a n := by
  rw [masked_eq_iff, field_eq_iff]
  refine ⟨fun hmasked k hk => hmasked _ (by omega) ?_, fun hfield k hk hmask => ?_⟩
  · simp [getLsbD_fieldMask (show a + k < 32 by omega), hk]
  · obtain ⟨ha, hn⟩ := of_decide_eq_true ((getLsbD_fieldMask hk).symm.trans hmask)
    simpa [ha] using hfield (k - a) (by omega)

/-! ## The five masks of the table, by the fields they cover (R101) -/

theorem opMasked_eq_iff {w v : Word} : w &&& 0xFC000000 = v &&& 0xFC000000 ↔ opField w = opField v :=
  fieldMasked_eq_iff (a := 26) (n := 6) (by decide)

theorem functMasked_eq_iff {w v : Word} :
    w &&& 0xFC00003F = v &&& 0xFC00003F ↔ opField w = opField v ∧ functField w = functField v :=
  masked_or_eq_iff.trans (and_congr opMasked_eq_iff (fieldMasked_eq_iff (a := 0) (n := 6) (by decide)))

theorem rtMasked_eq_iff {w v : Word} :
    w &&& 0xFC1F0000 = v &&& 0xFC1F0000 ↔ opField w = opField v ∧ rtField w = rtField v :=
  masked_or_eq_iff.trans (and_congr opMasked_eq_iff (fieldMasked_eq_iff (a := 16) (n := 5) (by decide)))

theorem rsMasked_eq_iff {w v : Word} :
    w &&& 0xFFE00000 = v &&& 0xFFE00000 ↔ opField w = opField v ∧ rsField w = rsField v :=
  masked_or_eq_iff.trans (and_congr opMasked_eq_iff (fieldMasked_eq_iff (a := 21) (n := 5) (by decide)))

theorem coMasked_eq_iff {w v : Word} :
    w &&& 0xFE00003F = v &&& 0xFE00003F ↔ (opField w = opField v ∧ functField w = functField v) ∧ coBit w = coBit v := by
  refine (masked_or_eq_iff (m := 0xFC00003F) (n := fieldMask 25 1)).trans (and_congr functMasked_eq_iff ?_)
  rw [fieldMasked_eq_iff (by decide), field_eq_iff]
  exact ⟨fun h => h 0 Nat.one_pos, fun h k hk => by rwa [Nat.lt_one_iff.1 hk]⟩

/-! ## The row of an instruction -/

theorem row_fits_encode (i : Instr) : i.row.fits (encode i) = true := by
  cases i with
  | sll | srl | sra | sllv | srlv | srav | add | addu | sub | subu | and | or | xor | nor | slt | sltu | mult | multu | div
  | divu | mfhi | mflo | mthi | mtlo | jr | jalr => exact decide_eq_true (rType_masked ..)
  | syscall | brk => exact decide_eq_true (codeType_masked ..)
  | bltz | bgez | bltzal | bgezal => exact decide_eq_true (regimm_masked ..)
  | mfc0 | mtc0 => exact decide_eq_true (moveType_masked ..)
  | rfe => exact Laws.EncodedInRow.rfe
  | addi | addiu | slti | sltiu | andi | ori | xori | lui | beq | bne | blez | bgtz | lb | lbu | lh | lhu | lw | lwl | lwr
  | sb | sh | sw | swl | swr | lwc0 | lwc1 | lwc2 | lwc3 | swc0 | swc1 | swc2 | swc3 => exact decide_eq_true (iType_masked ..)
  | j | jal | cop1 | cop2 | cop3 => exact decide_eq_true (jType_masked ..)

/-- The row's pattern is the encoded instruction under the row's mask. -/
theorem row_fits_iff (i : Instr) (w : Word) : i.row.fits w = true ↔ w &&& i.row.mask = encode i &&& i.row.mask := by
  have hpattern : encode i &&& i.row.mask = i.row.pattern := of_decide_eq_true (row_fits_encode i)
  rw [hpattern]
  exact decide_eq_true_iff

/-! ## A word of a row is decoded to an instruction of that row -/

/-- The covered fields, read off the encoded instruction, lead the decoder to the row's cell, whatever the other fields. -/
theorem map_row_decode_of_fits {i : Instr} {w : Word} (h : i.row.fits w = true) : (decode w).map Instr.row = .ok i.row := by
  rw [row_fits_iff] at h
  cases i with
  | sll | srl | sra | sllv | srlv | srav | add | addu | sub | subu | and | or | xor | nor | slt | sltu | mult | multu | div
  | divu | mfhi | mflo | mthi | mtlo | jr | jalr | syscall | brk =>
    obtain ⟨hop, hfunct⟩ := functMasked_eq_iff.1 h
    simp only [encode, opField_rType, functField_rType, opField_codeType, functField_codeType] at hop hfunct
    rw [decode_special hop, decodeSpecial, hfunct]
    rfl
  | bltz | bgez | bltzal | bgezal =>
    obtain ⟨hop, hrt⟩ := rtMasked_eq_iff.1 h
    simp only [encode, opField_iType, rtField_iType] at hop hrt
    rw [decode_regimm hop, decodeRegimm, hrt]
    rfl
  | mfc0 | mtc0 =>
    obtain ⟨hop, hrs⟩ := rsMasked_eq_iff.1 h
    simp only [encode, opField_moveType, rsField_moveType] at hop hrs
    rw [decode_cop0 hop, decodeCop0, Machine.coBit_eq_msb_rsField, hrs]
    rfl
  | rfe =>
    obtain ⟨⟨hop, hfunct⟩, hco⟩ := coMasked_eq_iff.1 h
    rw [decode_cop0 hop, Machine.decodeCop0_rfe hco hfunct]
    rfl
  | addi | addiu | slti | sltiu | andi | ori | xori | lui | beq | bne | blez | bgtz | lb | lbu | lh | lhu | lw | lwl | lwr
  | sb | sh | sw | swl | swr | lwc0 | lwc1 | lwc2 | lwc3 | swc0 | swc1 | swc2 | swc3 | j | jal | cop1 | cop2 | cop3 =>
    have hop := opMasked_eq_iff.1 h
    simp only [encode, opField_iType, opField_jType] at hop
    rw [decode, hop]
    rfl

/-! ## A decoded word stands in its instruction's row -/

theorem fits_of_decodeSpecial {i : Instr} {w : Word} (hop : opField w = 0#6) (h : decodeSpecial w = .ok i) :
    i.row.fits w = true := by
  rw [row_fits_iff]
  unfold decodeSpecial at h
  split at h
  on_goal -1 => cases h -- the default arm
  all_goals
    next hfunct =>
      cases h
      exact functMasked_eq_iff.2 (by simp [encode, hop, hfunct])

theorem fits_of_decodeRegimm {i : Instr} {w : Word} (hop : opField w = 1#6) (h : decodeRegimm w = .ok i) :
    i.row.fits w = true := by
  rw [row_fits_iff]
  unfold decodeRegimm at h
  split at h
  on_goal -1 => cases h -- the default arm
  all_goals
    next hrt =>
      cases h
      exact rtMasked_eq_iff.2 (by simp [encode, hop, hrt])

theorem fits_of_decodeCop0 {i : Instr} {w : Word} (hop : opField w = 0x10#6) (h : decodeCop0 w = .ok i) :
    i.row.fits w = true := by
  rw [row_fits_iff]
  unfold decodeCop0 at h
  split at h
  · next hco =>
    split at h
    · next hfunct =>
      cases h
      exact coMasked_eq_iff.2 ⟨⟨hop, hfunct⟩, hco⟩
    · cases h
  · split at h
    on_goal -1 => cases h -- the default arm
    all_goals
      next hrs =>
        cases h
        exact rsMasked_eq_iff.2 (by simp [encode, hop, hrs])

theorem fits_of_decode {i : Instr} {w : Word} (h : decode w = .ok i) : i.row.fits w = true := by
  unfold decode at h
  split at h
  · next hop => exact fits_of_decodeSpecial hop h
  · next hop => exact fits_of_decodeRegimm hop h
  · next hop => exact fits_of_decodeCop0 hop h
  on_goal -1 => cases h -- the default arm
  all_goals
    next hop =>
      cases h
      exact (row_fits_iff ..).2 (opMasked_eq_iff.2 (by simp [encode, hop]))

theorem decode_of_encode_eq {i : Instr} {w : Word} (h : encode i = w) : decode w = .ok i := h ▸ decode_encode i

end Sys2Proof
end

section
/-! PROOFS. The statements about the opcode table and the rules' example words (30_encoding.md). -/

namespace Sys2Proof.Proofs

/-- Settles O49: a decoded word fits its row, and a word that fits a row is decoded to an instruction of it; so it is not rejected,
and it fits no other row. -/
theorem decoderFollowsTable : Obligations.DecoderFollowsTable := by
  refine ⟨fun w i => fits_of_decode, fun w e herror i => ?_, fun w i j hi hj => ?_⟩
  · refine Bool.eq_false_iff.2 fun hfits => ?_
    have hrow := map_row_decode_of_fits hfits
    rw [herror] at hrow
    cases hrow
  · exact Except.ok.inj ((map_row_decode_of_fits hi).symm.trans (map_row_decode_of_fits hj))

/-- Settles O50: each word is the encoding of its instruction. -/
theorem exampleWords : Obligations.ExampleWords := by
  and_intros <;> exact decode_of_encode_eq (by decide)

end Sys2Proof.Proofs
end
